-- ==== Sys2Proof/Word.lean ====
section
/-! DEFINITION. The bit-vector types of the block: every value is an unsigned number of a stated width (R8). -/

namespace Sys2Proof

/-- One pixel configuration value, PIX_BITS = 8 bits (R4); a byte of the input buffer; a coordinate. -/
abbrev Byte := BitVec 8

/-- A word of PixelConfigWords, WORD_BITS = 32 (R4); a command word, CW_BITS = 32 (R5); RDATA (R70). -/
abbrev Word := BitVec 32

/-- An index or an entry of the bit-reversal table, LUT_BITS = 4 (R4). -/
abbrev Nibble := BitVec 4

/-- A `word_index`, 14 bits, so that every value names one of the 16,384 words (R40). -/
abbrev WordIndex := BitVec 14

/-- A byte lane of a word, 2 bits; lane 3 is the most significant byte (R43). -/
abbrev Lane := BitVec 2

/-- A flat offset into a valid buffer, 16 bits (R40). -/
abbrev Offset := BitVec 16

/-- The offset counter, I_BITS = 17 bits, so that it can hold the end value 65,536 (R5, R13). -/
abbrev Counter := BitVec 17

end Sys2Proof
end

