-- ==== Sys2Proof/Syntax.lean ====
section
/-! DEFINITION. The nine host commands as syntax, one constructor per row of the opcode map (R76). -/

namespace Sys2Proof

/-- FileFormat: "a closed enumeration of two variants" (R73). -/
inductive Format where
  | burdaMan
  | pixet
  deriving DecidableEq, Repr, Inhabited

/-- The source status `sstat` (R74). The reserved code 3 names no status: the decoder refuses a word
that carries it. -/
inductive SrcStatus where
  | ok
  | notFound
  | ioFail
  deriving DecidableEq, Repr, Inhabited

/-- The entry point of a load (R15): `buffer` for LOADB, `file` for LOADF. -/
inductive Entry where
  | buffer
  | file
  deriving DecidableEq, Repr, Inhabited

/-- A host command (R76) with its operand fields, each exactly as wide as its domain (R81). -/
inductive Instr where
  /-- NOP, opcode 0x0 (R141). -/
  | nop
  /-- LOADB `fmt`, `sstat`, opcode 0x1 (R142). -/
  | loadb (fmt : Format) (sstat : SrcStatus)
  /-- LOADF `fmt`, `sstat`, opcode 0x2 (R143). -/
  | loadf (fmt : Format) (sstat : SrcStatus)
  /-- RDPIX `x`, `y`, opcode 0x3 (R171). -/
  | rdpix (x y : Byte)
  /-- RDW `k`, opcode 0x4 (R172). -/
  | rdw (k : WordIndex)
  /-- QCMAP `i`, opcode 0x8 (R102). -/
  | qcmap (i : Offset)
  /-- QBREV `v`, opcode 0x9 (R112). -/
  | qbrev (v : Nibble)
  /-- QFDEC `fmt`, `b`, opcode 0xA (R124). -/
  | qfdec (fmt : Format) (b : Byte)
  /-- QWADDR `x`, `y`, opcode 0xB (R135). -/
  | qwaddr (x y : Byte)
  deriving DecidableEq, Repr

end Sys2Proof
end

