-- ==== Sys2Proof/WellFormed.lean ====
section
/-! DEFINITION. The one check a command needs beyond its field widths: which `sstat` its entry point may carry. -/

namespace Sys2Proof

/-- Is the command a legal one? LOADB may not carry NOT_FOUND, because "the buffer-based entry point cannot
raise this" (R74, R142); every other field is as wide as its domain, so nothing else can be out of range (R81). -/
def Instr.wf : Instr → Bool
  | .nop => true
  | .loadb _ .ok => true
  | .loadb _ .notFound => false
  | .loadb _ .ioFail => true
  | .loadf _ .ok => true
  | .loadf _ .notFound => true
  | .loadf _ .ioFail => true
  | .rdpix _ _ => true
  | .rdw _ => true
  | .qcmap _ => true
  | .qbrev _ => true
  | .qfdec _ _ => true
  | .qwaddr _ _ => true

end Sys2Proof
end

