-- ==== Sys2Proof/Decode.lean ====
section
/-! DEFINITION. The command word: fields (R71), opcode map (R76), the decoder in the order of R85, and the
encoder written from the same formats. -/

namespace Sys2Proof

/-- Why the decoder refuses a word: the three kinds of illegal encoding (R77), in the order in which R85 tests
for them. -/
inductive Illegal where
  /-- R85 step 1: the opcode is one of the seven reserved ones. -/
  | reservedOpcode
  /-- R85 step 2: a bit that the format marks 0 is 1. -/
  | reservedBit
  /-- R85 step 3: `sstat` has a value R74 does not allow for the command. -/
  | reservedStatus
  deriving DecidableEq, Repr

/-- The nine opcodes (R76). -/
inductive Opcode where
  | nop | loadb | loadf | rdpix | rdw | qcmap | qbrev | qfdec | qwaddr
  deriving DecidableEq, Repr

/-- The column `op` of R76. -/
def Opcode.code : Opcode → Nibble
  | .nop => 0x0#4
  | .loadb => 0x1#4
  | .loadf => 0x2#4
  | .rdpix => 0x3#4
  | .rdw => 0x4#4
  | .qcmap => 0x8#4
  | .qbrev => 0x9#4
  | .qfdec => 0xA#4
  | .qwaddr => 0xB#4

/-- The column `match` of R76. -/
def Opcode.matchBits : Opcode → Word
  | .nop => 0x00000000#32
  | .loadb => 0x10000000#32
  | .loadf => 0x20000000#32
  | .rdpix => 0x30000000#32
  | .rdw => 0x40000000#32
  | .qcmap => 0x80000000#32
  | .qbrev => 0x90000000#32
  | .qfdec => 0xA0000000#32
  | .qwaddr => 0xB0000000#32

/-- The column `mask` of R76: the opcode and every reserved-zero bit. -/
def Opcode.maskBits : Opcode → Word
  | .nop => 0xFFFFFFFF#32
  | .loadb => 0xFFFFFFF8#32
  | .loadf => 0xFFFFFFF8#32
  | .rdpix => 0xFFFF0000#32
  | .rdw => 0xFFFFC000#32
  | .qcmap => 0xFFFF0000#32
  | .qbrev => 0xFFFFFFF0#32
  | .qfdec => 0xFFFFFE00#32
  | .qwaddr => 0xFFFF0000#32

/-- The opcode a 4-bit `op` names; the seven reserved codes name none (R76). -/
def Opcode.ofCode (op : Nibble) : Option Opcode :=
  if op = 0x0#4 then some .nop
  else if op = 0x1#4 then some .loadb
  else if op = 0x2#4 then some .loadf
  else if op = 0x3#4 then some .rdpix
  else if op = 0x4#4 then some .rdw
  else if op = 0x8#4 then some .qcmap
  else if op = 0x9#4 then some .qbrev
  else if op = 0xA#4 then some .qfdec
  else if op = 0xB#4 then some .qwaddr
  else none

/-- The 1-bit code of a format (R73). -/
def Format.code : Format → BitVec 1
  | .burdaMan => 0#1
  | .pixet => 1#1

/-- The format a 1-bit code names: every code names one (R73). -/
def Format.ofCode (c : BitVec 1) : Format := if c = 0#1 then .burdaMan else .pixet

/-- The 2-bit code of a source status (R74). -/
def SrcStatus.code : SrcStatus → BitVec 2
  | .ok => 0#2
  | .notFound => 1#2
  | .ioFail => 2#2

/-- The status a 2-bit code names; 3 is reserved (R74). -/
def SrcStatus.ofCode (c : BitVec 2) : Option SrcStatus :=
  if c = 0#2 then some .ok
  else if c = 1#2 then some .notFound
  else if c = 2#2 then some .ioFail
  else none

/-- The fields of the seven formats (R71): `cwOp` = CW[31:28]. -/
def cwOp (cw : Word) : Nibble := cw.extractLsb' 28 4
/-- Format L: `fmt` = CW[0]. -/
def cwLoadFmt (cw : Word) : BitVec 1 := cw.extractLsb' 0 1
/-- Format L: `sstat` = CW[2:1]. -/
def cwSstat (cw : Word) : BitVec 2 := cw.extractLsb' 1 2
/-- Format P: `x` = CW[7:0]. -/
def cwX (cw : Word) : Byte := cw.extractLsb' 0 8
/-- Format P: `y` = CW[15:8]. -/
def cwY (cw : Word) : Byte := cw.extractLsb' 8 8
/-- Format K: `k` = CW[13:0]. -/
def cwK (cw : Word) : WordIndex := cw.extractLsb' 0 14
/-- Format I: `i` = CW[15:0]. -/
def cwI (cw : Word) : Offset := cw.extractLsb' 0 16
/-- Format V: `v` = CW[3:0]. -/
def cwV (cw : Word) : Nibble := cw.extractLsb' 0 4
/-- Format B: `fmt` = CW[8]. -/
def cwQueryFmt (cw : Word) : BitVec 1 := cw.extractLsb' 8 1
/-- Format B: `b` = CW[7:0]. -/
def cwB (cw : Word) : Byte := cw.extractLsb' 0 8

/-- R85 step 3 for LOADB: `sstat` must be OK or IO_FAIL (R74). -/
def decodeLoadb (cw : Word) : Except Illegal Instr :=
  match SrcStatus.ofCode (cwSstat cw) with
  | some .ok => .ok (.loadb (Format.ofCode (cwLoadFmt cw)) .ok)
  | some .ioFail => .ok (.loadb (Format.ofCode (cwLoadFmt cw)) .ioFail)
  | some .notFound => .error .reservedStatus
  | none => .error .reservedStatus

/-- R85 step 3 for LOADF: `sstat` must not be 3 (R74). -/
def decodeLoadf (cw : Word) : Except Illegal Instr :=
  match SrcStatus.ofCode (cwSstat cw) with
  | some st => .ok (.loadf (Format.ofCode (cwLoadFmt cw)) st)
  | none => .error .reservedStatus

/-- The operands of a word whose opcode and reserved bits have been checked. -/
def decodeFields (op : Opcode) (cw : Word) : Except Illegal Instr :=
  match op with
  | .nop => .ok .nop
  | .loadb => decodeLoadb cw
  | .loadf => decodeLoadf cw
  | .rdpix => .ok (.rdpix (cwX cw) (cwY cw))
  | .rdw => .ok (.rdw (cwK cw))
  | .qcmap => .ok (.qcmap (cwI cw))
  | .qbrev => .ok (.qbrev (cwV cw))
  | .qfdec => .ok (.qfdec (Format.ofCode (cwQueryFmt cw)) (cwB cw))
  | .qwaddr => .ok (.qwaddr (cwX cw) (cwY cw))

/-- Decode a command word, testing in the order of R85: reserved opcode, then reserved bits
(`CW & mask != match`), then `sstat`. Total on all 2^32 words; every illegal word is refused by name (R77). -/
def decode (cw : Word) : Except Illegal Instr :=
  match Opcode.ofCode (cwOp cw) with
  | none => .error .reservedOpcode
  | some op => if cw &&& op.maskBits = op.matchBits then decodeFields op cw else .error .reservedBit

/-- The word of a command: its row's match (R76) with each field of its format in its place (R71). -/
def encode : Instr → Word
  | .nop => Opcode.nop.matchBits
  | .loadb f st => Opcode.loadb.matchBits ||| st.code.setWidth 32 <<< 1 ||| f.code.setWidth 32
  | .loadf f st => Opcode.loadf.matchBits ||| st.code.setWidth 32 <<< 1 ||| f.code.setWidth 32
  | .rdpix x y => Opcode.rdpix.matchBits ||| y.setWidth 32 <<< 8 ||| x.setWidth 32
  | .rdw k => Opcode.rdw.matchBits ||| k.setWidth 32
  | .qcmap i => Opcode.qcmap.matchBits ||| i.setWidth 32
  | .qbrev v => Opcode.qbrev.matchBits ||| v.setWidth 32
  | .qfdec f b => Opcode.qfdec.matchBits ||| f.code.setWidth 32 <<< 8 ||| b.setWidth 32
  | .qwaddr x y => Opcode.qwaddr.matchBits ||| y.setWidth 32 <<< 8 ||| x.setWidth 32

/-- The opcode of a command (R76). -/
def Instr.opcode : Instr → Opcode
  | .nop => .nop
  | .loadb _ _ => .loadb
  | .loadf _ _ => .loadf
  | .rdpix _ _ => .rdpix
  | .rdw _ => .rdw
  | .qcmap _ => .qcmap
  | .qbrev _ => .qbrev
  | .qfdec _ _ => .qfdec
  | .qwaddr _ _ => .qwaddr

/-- The command this decoder reads from a word given as a number, bit 0 the least significant. Every command
is one 32-bit word (R79), so a row has 32 bits and a number of more bits is no command word. -/
def decodeTableWord (nbits w : Nat) : Option Instr :=
  if nbits ≤ 32 ∧ w < 2 ^ 32 then
    match decode (BitVec.ofNat 32 w) with
    | .ok i => some i
    | .error _ => none
  else none

end Sys2Proof
end

