-- ==== Sys2Proof/Config.lean ====
section
/-! DEFINITION. What is fixed for the block: the parameters of R4 and R5, and the free values that stand for
what CSTEP discards (R15). -/

namespace Sys2Proof

/-- LEN_W, the width of a length (R5, D6): the spec's default, log entry 12 (DESIGN CHOICE). -/
abbrev Config.lenW : Nat := 32

/-- CAUSE_W, the width of an opaque I/O cause (R5, D7): the spec's default, log entry 12 (DESIGN CHOICE). -/
abbrev Config.causeW : Nat := 32

/-- EXPECTED_LEN = N_BYTES = 65,536 (R4). -/
abbrev Config.expectedLen : Nat := 65536

/-- N_WORDS = 16,384 (R4). -/
abbrev Config.nWords : Nat := 16384

/-- PIXET_PASS_MASK: bits 0 and 5 pass unchanged under Pixet (R4, R82). -/
abbrev Config.pixetPassMask : Byte := 0x21#8

/-- PIXET_FIELD_MASK: bits 1 to 4 are bit-reversed under Pixet (R4, R82). -/
abbrev Config.pixetFieldMask : Byte := 0x1E#8

/-- A length of LEN_W bits. -/
abbrev Length := BitVec Config.lenW

/-- An opaque cause of CAUSE_W bits. -/
abbrev Cause := BitVec Config.causeW

/-- FREE VALUE: what ENTRY holds once CSTEP has discarded it (R15: "after CSTEP their value is unspecified");
log entry 8. -/
opaque Config.freeEntry : Nat → Entry

/-- FREE VALUE: what SSTAT holds once CSTEP has discarded it (R15); log entry 8. -/
opaque Config.freeSrcStatus : Nat → SrcStatus

/-- FREE VALUE: what LEN holds once CSTEP has discarded it (R15); log entry 8. -/
opaque Config.freeLength : Nat → Length

/-- FREE VALUE: what CAUSE holds once CSTEP has discarded it (R15); log entry 8. -/
opaque Config.freeCause : Nat → Cause

end Sys2Proof
end

