-- ==== Sys2Proof/Machine/State.lean ====
section
/-! DEFINITION. The state of the block (R10), its ports (R70), the host agent's remaining moves (R7), the
reasons a step can stop, and the machine right after reset (R27, R211). -/

namespace Sys2Proof.Machine

/-- PHASE (R12): five names, so that the codes 5, 6 and 7, which no rule writes, cannot be written down. -/
inductive Phase where
  | idle
  | validating
  | decoding
  | complete
  | failed
  deriving DecidableEq, Repr

/-- ERR (R16): the kind of typed failure; `clear` is code 0, "None (no failure recorded)". -/
inductive ErrKind where
  | clear
  | notFound
  | invalidSize
  | ioFailure
  deriving DecidableEq, Repr

/-- A typed failure with its payload (R180): what `raise` records. The expected length of an InvalidSize is the
constant ERR_EXPECTED (R17) and is not carried. -/
inductive Failure where
  | notFound
  | invalidSize (actual : Length)
  | ioFailure (cause : Cause)
  deriving DecidableEq, Repr

/-- RESP (R75); the code 3 is never produced. -/
inductive Resp where
  | ok
  | reject
  | notReady
  deriving DecidableEq, Repr

/-- One response on the response port (R70): RESP and RDATA. -/
structure Response where
  resp : Resp
  rdata : Word
  deriving DecidableEq, Repr

/-- One word of PixelConfigWords by its index. -/
abbrev WordCell := Nat × Word

/-- A byte sequence (R24): its length, and by rising offset its non-zero bytes; an offset below `len` that is
not listed holds 0. Log entry 7. -/
structure Buffer where
  len : Length
  cells : List Host.Cell
  deriving DecidableEq, Repr

/-- The operand port (R70, R72). LEN_IN is the length of `buf` by construction (D33, U2); log entry 4. -/
structure OperandPort where
  buf : Buffer
  causeIn : Cause
  deriving DecidableEq, Repr

/-- A move of the host agent (R7, R219); log entry 1. -/
inductive HostMove where
  /-- Present LEN_IN, CAUSE_IN and B on the operand port (R212 step 2). -/
  | present (o : OperandPort)
  /-- Present a command word on the command port (R71, R212 step 3). -/
  | command (cw : Word)
  /-- Apply the reset input (R210). -/
  | reset
  /-- Let one step pass without a move, so that a reset can land at any point of a load. -/
  | pass
  deriving DecidableEq, Repr

/-- The whole state: the tuple of R10, the load's buffer (R24), the ports (R70), the host agent's moves, and a
counter of the model's own. -/
structure State where
  /-- PHASE (R12). -/
  phase : Phase
  /-- The offset counter (R13). -/
  i : Counter
  /-- FMT (R14). -/
  fmt : Format
  /-- ENTRY (R15). -/
  entry : Entry
  /-- SSTAT (R15). -/
  sstat : SrcStatus
  /-- LEN (R15). -/
  len : Length
  /-- CAUSE (R15). -/
  cause : Cause
  /-- ERR (R16). -/
  err : ErrKind
  /-- ERR_ACTUAL (R18). -/
  errActual : Length
  /-- ERR_CAUSE (R19). -/
  errCause : Cause
  /-- W, PixelConfigWords (R22, R42): the non-zero words by rising index, every other word being 0; log entry 6. -/
  w : List WordCell
  /-- B, the buffer of the load most recently accepted (R24, R144); log entry 11. -/
  buf : Buffer
  /-- What the host holds on the operand port (R72); log entry 4. -/
  operands : OperandPort
  /-- The response to the last command taken, if one has been taken since reset (R70, R75); log entry 3. -/
  response : Option Response
  /-- The moves the host makes from here on, oldest first; log entry 1. -/
  host : List HostMove
  /-- The model's own: which free value the next discarded latches take; log entry 8. -/
  fresh : Nat
  deriving DecidableEq, Repr

/-- Why a step can stop with a fault. -/
inductive Fault where
  /-- Raised by the sequencer in Decoding with `i` above 65,536, where neither DSTEP nor CSTEP is enabled (R13,
  R140). Safe: no run from reset gets there (log entry 15). -/
  | offsetBeyondEnd
  /-- Raised by DSTEP when the buffer has no byte at offset `i`: "No offset outside [0, 65535] is ever
  presented" of a buffer of 65,536 bytes (R41). Safe: no run from reset gets there (log entry 15). -/
  | bufferOffsetAbsent
  deriving DecidableEq, Repr

/-- Why a command can be refused a meaning. -/
inductive Refusal where
  /-- Raised by an arm of `exec` for a command without a meaning yet. Safe: nothing is claimed of it. -/
  | notModelled (mnemonic : String)
  /-- Raised by every meaning when it is asked to run while busy: "no transition takes a command while busy"
  (R156, U5). `step` never asks it (the command waits at the port). Safe: log entry 13. -/
  | commandWhileBusy
  deriving DecidableEq, Repr

/-- The byte sequence of no bytes. -/
def Buffer.empty : Buffer := ⟨0, []⟩

/-- The machine right after reset (R27, R211), with a host that has presented nothing and makes no move. PHASE,
ERR, ERR_ACTUAL and ERR_CAUSE are the spec's values; every other value is the model's (log entries 3, 4, 5). -/
def State.reset : State where
  phase := .idle
  i := 0
  fmt := .burdaMan
  entry := .buffer
  sstat := .ok
  len := 0
  cause := 0
  err := .clear
  errActual := 0
  errCause := 0
  w := []
  buf := Buffer.empty
  operands := ⟨Buffer.empty, 0⟩
  response := none
  host := []
  fresh := 0

end Sys2Proof.Machine
end

