-- ==== Sys2Proof/Machine/Flags.lean ====
section
/-! DEFINITION. The three status flags (R20) and the status port (R28) with the codes of R12, R14 and R16. -/

namespace Sys2Proof.Machine

/-- `busy`: PHASE is Validating or Decoding (R20). -/
def State.busy (s : State) : Bool :=
  match s.phase with
  | .idle => false
  | .validating => true
  | .decoding => true
  | .complete => false
  | .failed => false

/-- `done`: PHASE is Complete (R20). -/
def State.done (s : State) : Bool :=
  match s.phase with
  | .idle => false
  | .validating => false
  | .decoding => false
  | .complete => true
  | .failed => false

/-- `fail`: PHASE is Failed (R20). -/
def State.fail (s : State) : Bool :=
  match s.phase with
  | .idle => false
  | .validating => false
  | .decoding => false
  | .complete => false
  | .failed => true

/-- The 3-bit code of PHASE (R12). -/
def Phase.code : Phase → BitVec 3
  | .idle => 0#3
  | .validating => 1#3
  | .decoding => 2#3
  | .complete => 3#3
  | .failed => 4#3

/-- The 2-bit code of ERR (R16). -/
def ErrKind.code : ErrKind → BitVec 2
  | .clear => 0#2
  | .notFound => 1#2
  | .invalidSize => 2#2
  | .ioFailure => 3#2

/-- The 2-bit code of RESP (R75). -/
def Resp.code : Resp → BitVec 2
  | .ok => 0#2
  | .reject => 1#2
  | .notReady => 2#2

/-- The 1-bit code of ENTRY (R15). -/
def entryCode : Entry → BitVec 1
  | .buffer => 0#1
  | .file => 1#1

/-- The constant ERR_EXPECTED, 65,536 (R17). -/
def errExpected : Length := BitVec.ofNat Config.lenW Config.expectedLen

/-- What the status port shows, exactly (R28). -/
structure StatusPort where
  phase : BitVec 3
  busy : Bool
  done : Bool
  fail : Bool
  fmt : BitVec 1
  err : BitVec 2
  errExpected : Length
  errActual : Length
  errCause : Cause
  deriving DecidableEq, Repr

/-- The status port of a state: a function of the state, read without a command and without effect (R28). -/
def State.statusPort (s : State) : StatusPort where
  phase := s.phase.code
  busy := s.busy
  done := s.done
  fail := s.fail
  fmt := s.fmt.code
  err := s.err.code
  errExpected := Sys2Proof.Machine.errExpected
  errActual := s.errActual
  errCause := s.errCause

end Sys2Proof.Machine
end

