-- ==== Sys2Proof/Machine/Ops.lean ====
section
/-! DEFINITION. The named operations over memory and registers: sparse cells, the word array, the buffer,
answering a command, accepting a load (R144), raising a failure (R185), completing, reset (R211). -/

namespace Sys2Proof.Machine

/-- Read a sparse array: an index that is not listed holds 0. -/
def cellsRead {n : Nat} : List (Nat × BitVec n) → Nat → BitVec n
  | [], _ => 0
  | (a, v) :: rest, k => if a = k then v else cellsRead rest k

/-- A sparse array without what it lists at `k`. -/
def cellsErase {n : Nat} : List (Nat × BitVec n) → Nat → List (Nat × BitVec n)
  | [], _ => []
  | (a, v) :: rest, k => if a = k then cellsErase rest k else (a, v) :: cellsErase rest k

/-- A sparse array with the pair `(k, v)` put in its place by rising index. -/
def cellsInsert {n : Nat} : List (Nat × BitVec n) → Nat → BitVec n → List (Nat × BitVec n)
  | [], k, v => [(k, v)]
  | (a, u) :: rest, k, v => if k < a then (k, v) :: (a, u) :: rest else (a, u) :: cellsInsert rest k v

/-- Write a sparse array: writing 0, what an unlisted index holds, removes the entry. -/
def cellsWrite {n : Nat} (m : List (Nat × BitVec n)) (k : Nat) (v : BitVec n) : List (Nat × BitVec n) :=
  if v = 0 then cellsErase m k else cellsInsert (cellsErase m k) k v

/-- The canonical form: indices strictly rising and below `bound`, no entry equal to 0. -/
def cellsWf {n : Nat} (bound : Nat) : List (Nat × BitVec n) → Bool
  | [] => true
  | (a, v) :: rest =>
    decide (a < bound) && decide (v ≠ 0) && rest.all (fun c => decide (a < c.1)) && cellsWf bound rest

/-- `MemRead(W:k, 4)`: the 32-bit word k of PixelConfigWords (R42, R46). -/
def wordRead (w : List WordCell) (k : WordIndex) : Word := cellsRead w k.toNat

/-- `MemWrite(W:k, 4, v)`: word k takes the value v (R42). -/
def wordWrite (w : List WordCell) (k : WordIndex) (v : Word) : List WordCell := cellsWrite w k.toNat v

/-- The word array with every one of its 16,384 words 0x00000000 (R146). -/
def wordsZero : List WordCell := []

/-- The canonical form of the word array: 16,384 words (R22). -/
def wordsWf (w : List WordCell) : Bool := cellsWf Config.nWords w

/-- `MemRead(BUF:i, 1)`: the byte at offset i, where the sequence has one (R41). -/
def bufferRead (b : Buffer) (i : Nat) : Option Byte :=
  if i < b.len.toNat then some (cellsRead b.cells i) else none

/-- The canonical form of a buffer: it lists offsets it has. -/
def bufferWf (b : Buffer) : Bool := cellsWf b.len.toNat b.cells

/-- `respond(code, data)`: the command in hand returns RESP and RDATA (R75). -/
def respond (code : Resp) (data : Word) (s : State) : State :=
  { s with response := some ⟨code, data⟩ }

/-- ACCEPT (R144): latch the command's operands and the operand port, fix the load's buffer, clear the error
registers, and start validating. W is not written. -/
def accept (entry : Entry) (fmt : Format) (sstat : SrcStatus) (s : State) : State :=
  { s with
    entry := entry
    fmt := fmt
    sstat := sstat
    len := s.operands.buf.len
    cause := s.operands.causeIn
    buf := s.operands.buf
    err := .clear
    errActual := 0
    errCause := 0
    phase := .validating }

/-- The kind ERR records for a failure (R180). -/
def failureKind : Failure → ErrKind
  | .notFound => .notFound
  | .invalidSize _ => .invalidSize
  | .ioFailure _ => .ioFailure

/-- `raise E(info)` (R185): record the failure and its payload and go to Failed; nothing else is written. -/
def raise (f : Failure) (s : State) : State :=
  match f with
  | .notFound => { s with err := .notFound, phase := .failed }
  | .invalidSize actual => { s with err := .invalidSize, errActual := actual, phase := .failed }
  | .ioFailure cause => { s with err := .ioFailure, errCause := cause, phase := .failed }

/-- The success arm of VSTEP (R145, R146): every word of W to 0, `i` to 0, PHASE to Decoding. -/
def startDecoding (s : State) : State :=
  { s with w := wordsZero, i := 0, phase := .decoding }

/-- The end of a DSTEP (R147): the word array after the merge, and `i + 1`. -/
def stored (w : List WordCell) (s : State) : State :=
  { s with w := w, i := s.i + 1 }

/-- CSTEP's discarding of the validation latches: "after CSTEP their value is unspecified" (R15). Each takes a
free value; log entry 8. -/
def discardLatches (s : State) : State :=
  { s with
    entry := Config.freeEntry s.fresh
    sstat := Config.freeSrcStatus s.fresh
    len := Config.freeLength s.fresh
    cause := Config.freeCause s.fresh
    fresh := s.fresh + 1 }

/-- PHASE to Complete (R148). -/
def exposeGrid (s : State) : State := { s with phase := .complete }

/-- Reset (R211), in any state: every register of the block as `State.reset` has it. What the host holds on the
operand port, its remaining moves and the model's counter are not the block's; log entry 17. -/
def applyReset (s : State) : State :=
  { State.reset with operands := s.operands, host := s.host, fresh := s.fresh }

/-- A command is taken only while `busy = 0` (R156); asked while busy, it has no transition (U5). -/
def whenReady (s : State) (t : State) : Host.Outcome State Fault Refusal :=
  if s.busy then .refused .commandWhileBusy else .next t

end Sys2Proof.Machine
end

