-- ==== Sys2Proof/Machine/Operands.lean ====
section
/-! DEFINITION. The operand port (R72), and the layouts of RDATA (R84). -/

namespace Sys2Proof.Machine

/-- A pixel coordinate, each part in [0, 256). -/
structure Coord where
  x : Byte
  y : Byte
  deriving DecidableEq, Repr

/-- Where a pixel lives (R47): a word of W and a byte lane of it. -/
structure Slot where
  index : WordIndex
  lane : Lane
  deriving DecidableEq, Repr

/-- LEN_IN, the actual length of the byte sequence on the operand port (R72, D33). -/
def OperandPort.lenIn (o : OperandPort) : Length := o.buf.len

/-- RDATA of a pixel, of a FormatDecoder result: the byte in bits 7:0 (R84). -/
def rdataByte (b : Byte) : Word := b.setWidth 32

/-- RDATA of a table entry: bits 3:0 (R84). -/
def rdataNibble (v : Nibble) : Word := v.setWidth 32

/-- RDATA of a coordinate: y in bits 15:8, x in bits 7:0 (R84). -/
def rdataCoord (c : Coord) : Word := c.y.setWidth 32 <<< 8 ||| c.x.setWidth 32

/-- RDATA of a slot: the lane in bits 17:16, the word index in bits 13:0 (R84). -/
def rdataSlot (p : Slot) : Word := p.lane.setWidth 32 <<< 16 ||| p.index.setWidth 32

end Sys2Proof.Machine
end

