-- ==== Sys2Proof/Machine/CoordinateMap.lean ====
section
/-! DEFINITION. CoordinateMap: the functions CMAP and CMAP_INV, and the command QCMAP. -/

namespace Sys2Proof.Machine

/-- CMAP (R100): `x = i mod 256`, `y = 255 - (i div 256)`. -/
def cmap (i : Offset) : Coord where
  x := BitVec.ofNat 8 (i.toNat % 256)
  y := BitVec.ofNat 8 (255 - i.toNat / 256)

/-- CMAP_INV (R103): `256 * (255 - y) + x`. -/
def cmapInv (c : Coord) : Offset := BitVec.ofNat 16 (256 * (255 - c.y.toNat) + c.x.toNat)

/-- QCMAP `i` (R102). -/
def execQcmap (i : Offset) (s : State) : Host.Outcome State Fault Refusal :=
  whenReady s (respond .ok (rdataCoord (cmap i)) s)

end Sys2Proof.Machine
end

