-- ==== Sys2Proof/Machine/BitReversal.lean ====
section
/-! DEFINITION. BitReversal: the constant table LUT, the function BREV4, and the command QBREV. -/

namespace Sys2Proof.Machine

/-- LUT (R21): sixteen 4-bit entries, entry 0 first. A constant, not a parameter (R113). -/
def lut : Vector Nibble 16 :=
  #v[0#4, 8#4, 4#4, 12#4, 2#4, 10#4, 6#4, 14#4, 1#4, 9#4, 5#4, 13#4, 3#4, 11#4, 7#4, 15#4]

/-- BREV4 (R110): entry `v` of the table. -/
def brev4 (v : Nibble) : Nibble := lut.get v.toFin

/-- QBREV `v` (R112). -/
def execQbrev (v : Nibble) (s : State) : Host.Outcome State Fault Refusal :=
  whenReady s (respond .ok (rdataNibble (brev4 v)) s)

end Sys2Proof.Machine
end

