-- ==== Sys2Proof/Machine/FormatDecoder.lean ====
section
/-! DEFINITION. FormatDecoder: the function FDEC with its two variants, and the command QFDEC. -/

namespace Sys2Proof.Machine

/-- FDEC.BM (R121): the identity. -/
def fdecBm (b : Byte) : Byte := b

/-- FDEC.PX (R122): bits 5 and 0 kept, bits 4..1 reversed through the table, bits 7 and 6 dropped. -/
def fdecPx (b : Byte) : Byte :=
  let keep := b &&& Config.pixetPassMask
  let field : Nibble := ((b &&& Config.pixetFieldMask) >>> 1).setWidth 4
  let rev : Byte := (brev4 field).setWidth 8
  keep ||| (rev <<< 1)

/-- FDEC (R120): the variant the format selects. -/
def fdec (fmt : Format) (b : Byte) : Byte :=
  match fmt with
  | .burdaMan => fdecBm b
  | .pixet => fdecPx b

/-- QFDEC `fmt`, `b` (R124). -/
def execQfdec (fmt : Format) (b : Byte) (s : State) : Host.Outcome State Fault Refusal :=
  whenReady s (respond .ok (rdataByte (fdec fmt b)) s)

end Sys2Proof.Machine
end

