-- ==== Sys2Proof/Machine/WordPacker.lean ====
section
/-! DEFINITION. WordPacker: the functions WADDR and PACK, and the command QWADDR. -/

namespace Sys2Proof.Machine

/-- WADDR (R130): `word_index = 64 * x + (y >> 2)`, `lane = 3 - (y mod 4)`. -/
def waddr (c : Coord) : Slot where
  index := BitVec.ofNat 14 (64 * c.x.toNat + c.y.toNat >>> 2)
  lane := BitVec.ofNat 2 (3 - c.y.toNat % 4)

/-- `v << (8 * lane)` at 32 bits (R43, R132). -/
def laneWord (v : Byte) (l : Lane) : Word := v.setWidth 32 <<< (8 * l.toNat)

/-- `(w >> (8 * lane)) & 0xFF` (R43). -/
def laneByte (w : Word) (l : Lane) : Byte := ((w >>> (8 * l.toNat)) &&& 0xFF#32).setWidth 8

/-- PACK (R132): OR the byte into its lane of its word. -/
def pack (w : List WordCell) (c : Coord) (v : Byte) : List WordCell :=
  wordWrite w (waddr c).index (wordRead w (waddr c).index ||| laneWord v (waddr c).lane)

/-- QWADDR `x`, `y` (R135). -/
def execQwaddr (x y : Byte) (s : State) : Host.Outcome State Fault Refusal :=
  whenReady s (respond .ok (rdataSlot (waddr ⟨x, y⟩)) s)

end Sys2Proof.Machine
end

