-- ==== Sys2Proof/Machine/ConfigCodec.lean ====
section
/-! DEFINITION. ConfigCodec: the commands NOP, LOADB and LOADF, and the sequencer's steps VSTEP, DSTEP, CSTEP. -/

namespace Sys2Proof.Machine

/-- NOP (R141). -/
def execNop (s : State) : Host.Outcome State Fault Refusal := whenReady s (respond .ok 0 s)

/-- LOADB `fmt`, `sstat` (R142). A LOADB that carries NOT_FOUND is no legal command and is answered REJECT
(R181, R85 step 3). -/
def execLoadb (fmt : Format) (sstat : SrcStatus) (s : State) : Host.Outcome State Fault Refusal :=
  whenReady s
    (match sstat with
      | .ok => respond .ok 0 (accept .buffer fmt .ok s)
      | .notFound => respond .reject 0 s
      | .ioFail => respond .ok 0 (accept .buffer fmt .ioFail s))

/-- LOADF `fmt`, `sstat` (R143). -/
def execLoadf (fmt : Format) (sstat : SrcStatus) (s : State) : Host.Outcome State Fault Refusal :=
  whenReady s (respond .ok 0 (accept .file fmt sstat s))

/-- VSTEP (R145), enabled in Validating: source status first, then length; on success zero W and start
decoding. -/
def vstep (s : State) : State :=
  match s.sstat with
  | .notFound => raise .notFound s
  | .ioFail => raise (.ioFailure s.cause) s
  | .ok => if s.len = errExpected then startDecoding s else raise (.invalidSize s.len) s

/-- DSTEP (R147), enabled in Decoding while `i ≤ 65535`: fetch the byte at `i`, decode it, OR it into its lane. -/
def dstep (s : State) : Host.Outcome State Fault Refusal :=
  match bufferRead s.buf s.i.toNat with
  | some b => .next (stored (pack s.w (cmap (s.i.setWidth 16)) (fdec s.fmt b)) s)
  | none => .fault .bufferOffsetAbsent

/-- CSTEP (R148), enabled in Decoding when `i = 65536`. -/
def cstep (s : State) : State := exposeGrid (discardLatches s)

/-- One step of the sequencer: the internal step the state enables (R140, R153). In Idle, Complete and Failed none
is enabled and the block waits as it is (R194, R211; log entry 2). -/
def sequencer (s : State) : Host.Outcome State Fault Refusal :=
  match s.phase with
  | .idle => .next s
  | .validating => .next (vstep s)
  | .decoding =>
    if s.i.toNat < 65536 then dstep s
    else if s.i.toNat = 65536 then .next (cstep s)
    else .fault .offsetBeyondEnd
  | .complete => .next s
  | .failed => .next s

end Sys2Proof.Machine
end

