-- ==== Sys2Proof/Machine/GridProjection.lean ====
section
/-! DEFINITION. The grid projection: the function PROJ, the view Grid, and the commands RDPIX and RDW. -/

namespace Sys2Proof.Machine

/-- PROJ (R170): the lane of the word that WADDR names. -/
def proj (w : List WordCell) (c : Coord) : Byte := laneByte (wordRead w (waddr c).index) (waddr c).lane

/-- The grid, defined while PHASE = Complete (R175). -/
def grid (s : State) (c : Coord) : Option Byte :=
  match s.phase with
  | .idle => none
  | .validating => none
  | .decoding => none
  | .complete => some (proj s.w c)
  | .failed => none

/-- The grid as a flat sequence, `G[256 * y + x] = Grid(x, y)` (R56). -/
def gridFlat (s : State) (n : Offset) : Option Byte :=
  grid s ⟨BitVec.ofNat 8 (n.toNat % 256), BitVec.ofNat 8 (n.toNat / 256)⟩

/-- RDPIX `x`, `y` (R171): the pixel in Complete, NOTREADY in every other phase. -/
def execRdpix (x y : Byte) (s : State) : Host.Outcome State Fault Refusal :=
  whenReady s
    (if s.done then respond .ok (rdataByte (proj s.w ⟨x, y⟩)) s else respond .notReady 0 s)

/-- RDW `k` (R172): the word in Complete, NOTREADY in every other phase. -/
def execRdw (k : WordIndex) (s : State) : Host.Outcome State Fault Refusal :=
  whenReady s (if s.done then respond .ok (wordRead s.w k) s else respond .notReady 0 s)

end Sys2Proof.Machine
end

