-- ==== Sys2Proof/Machine/Dispatch.lean ====
section
/-! DEFINITION. One arm per command of R76, each one call of the command's own meaning. -/

namespace Sys2Proof.Machine

def exec (i : Instr) (s : State) : Host.Outcome State Fault Refusal :=
  match i with
  | .nop => Sys2Proof.Machine.execNop s
  | .loadb fmt sstat => Sys2Proof.Machine.execLoadb fmt sstat s
  | .loadf fmt sstat => Sys2Proof.Machine.execLoadf fmt sstat s
  | .rdpix x y => Sys2Proof.Machine.execRdpix x y s
  | .rdw k => Sys2Proof.Machine.execRdw k s
  | .qcmap off => Sys2Proof.Machine.execQcmap off s
  | .qbrev v => Sys2Proof.Machine.execQbrev v s
  | .qfdec fmt b => Sys2Proof.Machine.execQfdec fmt b s
  | .qwaddr x y => Sys2Proof.Machine.execQwaddr x y s

end Sys2Proof.Machine
end

