-- ==== Sys2Proof/Machine/Port.lean ====
section
/-! DEFINITION. The command port and the host agent: taking a command word (R85), the host's moves (R219), and
how a command is placed at the port. -/

namespace Sys2Proof.Machine

/-- Take a command word while `busy = 0` (R85): an illegal word is answered REJECT with no other effect (R77), a
legal one performs its own rule. -/
def takeCommand (cw : Word) (s : State) : Host.Outcome State Fault Refusal :=
  match decode cw with
  | .ok i => exec i s
  | .error _ => .next (respond .reject 0 s)

/-- The state once the host's oldest move has been made. -/
def dropMove (rest : List HostMove) (s : State) : State := { s with host := rest }

/-- One step of the two agents (R7). Reset lands in any state (R210). `present` and `command` are made only
while `busy = 0` and otherwise wait, the sequencer moving instead (R156); log entry 18. -/
def agentsStep (s : State) : Host.Outcome State Fault Refusal :=
  match s.host with
  | [] => sequencer s
  | .pass :: rest => sequencer (dropMove rest s)
  | .reset :: rest => .next (applyReset (dropMove rest s))
  | .present o :: rest =>
    if s.busy then sequencer s else .next { dropMove rest s with operands := o }
  | .command cw :: rest =>
    if s.busy then sequencer s else takeCommand cw (dropMove rest s)

/-- The phase in which the block takes a command at once: its own, or Idle if it is busy. -/
def readyPhase (s : State) : Phase := if s.busy then .idle else s.phase

/-- The state with a command word as the host's next move, and ready to take it; log entry 19. -/
def placeCommand (w : Nat) (s : State) : State :=
  { s with host := .command (BitVec.ofNat 32 w) :: s.host, phase := readyPhase s }

end Sys2Proof.Machine
end

