-- ==== Sys2Proof/Machine/Step.lean ====
section
/-! DEFINITION. One step of the machine, and a command placed where the next step takes it. -/

namespace Sys2Proof.Machine

/-- One atomic step (R6): a host move or an internal step of the sequencer. -/
def step (s : State) : Host.Outcome State Fault Refusal := agentsStep s

/-- The state with the command word `w` at the command port, so that the very next step takes it. Every command
is one 32-bit word (R79), so the number of bits the table gives does not matter. -/
def State.withFetchWord (s : State) (nbits w : Nat) : State :=
  placeCommand (w % 2 ^ nbits) s

end Sys2Proof.Machine
end

