-- ==== Sys2Proof/Machine/Blocks.lean ====
section
/-! DEFINITION. Several blocks (R55, R192): n blocks are n copies of the state, one of them stepping at a time,
with nothing shared. -/

namespace Sys2Proof.Machine

/-- Block `b` of a system of n blocks takes one step; every other block stays as it is (R55; log entry 22). -/
def stepBlock {n : Nat} (blocks : Vector State n) (b : Fin n) : Host.Outcome (Vector State n) Fault Refusal :=
  match step (blocks.get b) with
  | .next t => .next (blocks.set b t)
  | .fault r => .fault r
  | .refused r => .refused r

end Sys2Proof.Machine
end

