-- ==== Sys2Proof/Machine/Listing.lean ====
section
/-! DEFINITION. The listing syntax of R80: how a host command is written on a line, and which host moves a line
stands for. -/

namespace Sys2Proof.Machine

/-- `<fmt>` of R80. -/
def formatName : Format → String
  | .burdaMan => "BM"
  | .pixet => "PX"

/-- What follows `<fmt>` on the line of a load: `OK` is the default and is not written; `len=` and `buf=` are
omitted when the status is not OK (R80). -/
def loadOperands (sstat : SrcStatus) (o : OperandPort) (bufName : String) : String :=
  match sstat with
  | .ok => " ; len=" ++ Nat.repr o.buf.len.toNat ++ " ; buf=" ++ bufName
  | .notFound => ", NOTFOUND"
  | .ioFail => ", IOFAIL ; cause=" ++ Nat.repr o.causeIn.toNat

/-- The line of a command (R80), numbers in decimal, with the operand port it is issued under and the name of the
byte sequence defined beside the program. -/
def listingLine (i : Instr) (o : OperandPort) (bufName : String) : String :=
  match i with
  | .nop => "NOP"
  | .loadb f st => "LOADB " ++ formatName f ++ loadOperands st o bufName
  | .loadf f st => "LOADF " ++ formatName f ++ loadOperands st o bufName
  | .rdpix x y => "RDPIX " ++ Nat.repr x.toNat ++ ", " ++ Nat.repr y.toNat
  | .rdw k => "RDW " ++ Nat.repr k.toNat
  | .qcmap off => "QCMAP " ++ Nat.repr off.toNat
  | .qbrev v => "QBREV " ++ Nat.repr v.toNat
  | .qfdec f b => "QFDEC " ++ formatName f ++ ", " ++ Nat.repr b.toNat
  | .qwaddr x y => "QWADDR " ++ Nat.repr x.toNat ++ ", " ++ Nat.repr y.toNat

/-- A line of a listing: a command, with what the host presents on the operand port before it if anything, or the
directive WAIT. -/
inductive Line where
  | command (i : Instr) (o : Option OperandPort)
  | wait
  deriving DecidableEq, Repr

/-- The host moves of a line. WAIT stands for no command at all (R80). -/
def lineMoves : Line → List HostMove
  | .command i none => [.command (encode i)]
  | .command i (some o) => [.present o, .command (encode i)]
  | .wait => []

/-- The host moves of a listing, line by line. -/
def listingMoves : List Line → List HostMove
  | [] => []
  | l :: rest => lineMoves l ++ listingMoves rest

end Sys2Proof.Machine
end

