-- ==== Sys2Proof/Safety.lean ====
section
/-! DEFINITION. What counts as a good state and a safe step: the invariants of R25, the canonical form of the
data, and a step that neither faults nor is refused. -/

namespace Sys2Proof.Machine

/-- The invariants of R25 (clauses 2 to 5; clause 1 is arithmetic, clause 6 is about a step), with what R144 leaves
for VSTEP to check in Validating. -/
structure State.Inv (s : State) : Prop where
  /-- R25 clause 2: "`ERR ≠ 0` exactly when `PHASE = Failed`". -/
  errIffFailed : s.err ≠ .clear ↔ s.phase = .failed
  /-- R25 clause 3, for ERR_ACTUAL. -/
  errActualOnlyInvalidSize : s.errActual ≠ 0 → s.err = .invalidSize
  /-- R25 clause 3, for ERR_CAUSE. -/
  errCauseOnlyIoFailure : s.errCause ≠ 0 → s.err = .ioFailure
  /-- In Validating the latched length is that of the buffer (D33), and NOT_FOUND came through LOADF (R145). -/
  latched : s.phase = .validating → s.len = s.buf.len ∧ (s.sstat = .notFound → s.entry = .file)
  /-- R25 clause 4: while decoding, the bytes below `i` are in their lanes and every other lane is 0. -/
  decoding : s.phase = .decoding →
    s.i.toNat ≤ 65536 ∧ s.buf.len = errExpected ∧
    ∀ (j : Offset) (b : Byte), bufferRead s.buf j.toNat = some b →
      proj s.w (cmap j) = if j.toNat < s.i.toNat then fdec s.fmt b else 0
  /-- R25 clause 5: in Complete, every pixel is the decoded byte of the load's buffer. -/
  complete : s.phase = .complete →
    s.buf.len = errExpected ∧
    ∀ (x y b : Byte), bufferRead s.buf (256 * (255 - y.toNat) + x.toNat) = some b →
      proj s.w ⟨x, y⟩ = fdec s.fmt b

/-- The canonical form of what a host move carries. -/
def moveCanonical : HostMove → Bool
  | .present o => bufferWf o.buf
  | .command _ => true
  | .reset => true
  | .pass => true

/-- Every sparse array of the state is in its one canonical form, so that equal contents are equal data. -/
def State.canonical (s : State) : Bool :=
  wordsWf s.w && bufferWf s.buf && bufferWf s.operands.buf && s.host.all moveCanonical

/-- The step answers a next state: no fault, no refusal. -/
def State.stepsSafely (s : State) : Prop := ∃ t, step s = .next t

/-- `n` steps, stopping at the first fault or refusal. -/
def steps : Nat → State → Host.Outcome State Fault Refusal
  | 0, s => .next s
  | n + 1, s =>
    match step s with
    | .next t => steps n t
    | .fault r => .fault r
    | .refused r => .refused r

/-- Everything the host can see of the block: the status port (R28), the response port (R70) and the grid
(R175). -/
structure Visible where
  status : StatusPort
  response : Option Response
  grid : Coord → Option Byte

/-- What the host sees in a state. -/
def State.visible (s : State) : Visible := ⟨s.statusPort, s.response, grid s⟩

/-- The host leaves a busy block to its sequencer: its next move is neither reset nor a passing step. -/
def hostLeaves (moves : List HostMove) : Prop := ∀ rest, moves ≠ .reset :: rest ∧ moves ≠ .pass :: rest

/-- The command that starts a load through an entry point (R142, R143). -/
def loadCommand (entry : Entry) (fmt : Format) (sstat : SrcStatus) : Instr :=
  match entry with
  | .buffer => .loadb fmt sstat
  | .file => .loadf fmt sstat

/-- A legal LOADB or LOADF stands at the command port of a block that is not busy, and the host then leaves the
block to its sequencer. -/
def loadAtPort (s : State) (entry : Entry) (fmt : Format) (sstat : SrcStatus) (rest : List HostMove) : Prop :=
  s.busy = false ∧ hostLeaves rest ∧
    ∃ cw, s.host = .command cw :: rest ∧ decode cw = .ok (loadCommand entry fmt sstat)

end Sys2Proof.Machine
end

