-- ==== Sys2Proof/Certificates/Slice0/Obligations.lean ====
section
/-! DEFINITION. The statements for the provers: what the numbered rules of the spec say of the block. -/

open Sys2Proof Sys2Proof.Machine

/-! ## Command words (30_encoding.md) -/

/-- R86: the fourteen legal worked words decode to their commands and are their encodings; the illegal ones are
answered REJECT with nothing else changed. -/
def Obligations.WorkedEncodings : Prop :=
  (∀ p ∈ ([(0x00000000#32, .nop), (0x10000000#32, .loadb .burdaMan .ok), (0x10000001#32, .loadb .pixet .ok),
      (0x10000004#32, .loadb .burdaMan .ioFail), (0x20000003#32, .loadf .pixet .notFound),
      (0x20000004#32, .loadf .burdaMan .ioFail), (0x3000FF00#32, .rdpix 0 255), (0x3000FC05#32, .rdpix 5 252),
      (0x4000003F#32, .rdw 63), (0x80001234#32, .qcmap 0x1234), (0x9000000D#32, .qbrev 13),
      (0xA000011A#32, .qfdec .pixet 0x1A), (0xA000001A#32, .qfdec .burdaMan 0x1A),
      (0xB000ED34#32, .qwaddr 52 237)] : List (Word × Instr)),
    decode p.1 = .ok p.2 ∧ encode p.2 = p.1) ∧
  (∀ cw ∈ ([0x10000002#32, 0x10000006#32, 0x20000006#32, 0x10000007#32, 0x20000007#32, 0x50000000#32,
      0xC0000000#32, 0xF0000001#32, 0x00000001#32, 0x10000008#32, 0x30010000#32, 0x40004000#32, 0x90000010#32,
      0xA0000200#32] : List Word),
    ∀ (s : State) (rest : List HostMove), s.busy = false → s.host = .command cw :: rest →
      step s = .next { s with host := rest, response := some ⟨.reject, 0⟩ })

/-- R71, R73, R74, R76: decoding the word of a legal command gives the command back, at every value of every
field. -/
def Obligations.DecodeOfEncode : Prop := ∀ i : Instr, i.wf = true → decode (encode i) = .ok i

/-- R76: a word that decodes is the word of the command it decodes to, and that command is legal. -/
def Obligations.EncodeOfDecode : Prop :=
  ∀ (cw : Word) (i : Instr), decode cw = .ok i → i.wf = true ∧ encode i = cw

/-- R76: the nine rows. A word is an instance of a row exactly when `CW & mask == match` and the row's constraint on
`sstat` holds, and a word of a reserved opcode is an instance of none. -/
def Obligations.RowsByMaskAndMatch : Prop :=
  (∀ row ∈ ([(.nop, 0x00000000#32, 0xFFFFFFFF#32), (.loadb, 0x10000000#32, 0xFFFFFFF8#32),
      (.loadf, 0x20000000#32, 0xFFFFFFF8#32), (.rdpix, 0x30000000#32, 0xFFFF0000#32),
      (.rdw, 0x40000000#32, 0xFFFFC000#32), (.qcmap, 0x80000000#32, 0xFFFF0000#32),
      (.qbrev, 0x90000000#32, 0xFFFFFFF0#32), (.qfdec, 0xA0000000#32, 0xFFFFFE00#32),
      (.qwaddr, 0xB0000000#32, 0xFFFF0000#32)] : List (Opcode × Word × Word)),
    ∀ cw : Word, (∃ i, decode cw = .ok i ∧ i.opcode = row.1) ↔
      cw &&& row.2.2 = row.2.1 ∧
      (row.1 = .loadb → cw.extractLsb' 1 2 = 0#2 ∨ cw.extractLsb' 1 2 = 2#2) ∧
      (row.1 = .loadf → cw.extractLsb' 1 2 ≠ 3#2)) ∧
  ∀ cw : Word, cwOp cw ∈ [0x5#4, 0x6#4, 0x7#4, 0xC#4, 0xD#4, 0xE#4, 0xF#4] → ∀ i, decode cw ≠ .ok i

/-- R85: a command word taken while `busy = 0` is decoded in this order and the first test that fires decides the
response. -/
def Obligations.CommandDecodedInOrder : Prop :=
  ∀ (s : State) (cw : Word) (rest : List HostMove), s.busy = false → s.host = .command cw :: rest →
    if cwOp cw ∈ [0x5#4, 0x6#4, 0x7#4, 0xC#4, 0xD#4, 0xE#4, 0xF#4] then
      step s = .next { s with host := rest, response := some ⟨.reject, 0⟩ }
    else ∃ op : Opcode, op.code = cwOp cw ∧
      if cw &&& op.maskBits ≠ op.matchBits then
        step s = .next { s with host := rest, response := some ⟨.reject, 0⟩ }
      else if (op = .loadb ∨ op = .loadf) ∧ cwSstat cw = 3#2 ∨ op = .loadb ∧ cwSstat cw = 1#2 then
        step s = .next { s with host := rest, response := some ⟨.reject, 0⟩ }
      else if (op = .rdpix ∨ op = .rdw) ∧ s.phase ≠ .complete then
        step s = .next { s with host := rest, response := some ⟨.notReady, 0⟩ }
      else ∃ i t data, decode cw = .ok i ∧ i.opcode = op ∧ exec i { s with host := rest } = .next t ∧
        step s = .next t ∧ t.response = some ⟨.ok, data⟩

/-- R77: a word is illegal when its opcode is a reserved one, when a bit its format marks 0 is 1, or when `sstat` has a
value its command may not carry. The decoder refuses exactly the illegal words, and one that is taken is answered
REJECT and changes nothing else: PHASE, ERR and W stand. -/
def Obligations.IllegalWordsChangeNothing : Prop :=
  (∀ cw : Word, (∃ r, decode cw = .error r) ↔
    cwOp cw ∈ [0x5#4, 0x6#4, 0x7#4, 0xC#4, 0xD#4, 0xE#4, 0xF#4] ∨
    (∃ op : Opcode, op.code = cwOp cw ∧ cw &&& op.maskBits ≠ op.matchBits) ∨
    (cwOp cw = 0x1#4 ∧ (cwSstat cw = 1#2 ∨ cwSstat cw = 3#2)) ∨
    (cwOp cw = 0x2#4 ∧ cwSstat cw = 3#2)) ∧
  ∀ (s : State) (cw : Word) (rest : List HostMove) (r : Illegal),
    s.busy = false → s.host = .command cw :: rest → decode cw = .error r →
      step s = .next { s with host := rest, response := some ⟨.reject, 0⟩ }

/-- A step runs the decoded command: with a word that decodes at the command port of a block that is not busy, the
step is `exec` of the command, once the host's move is taken off its list. -/
def Obligations.StepRunsTheDecodedCommand : Prop :=
  ∀ (s : State) (cw : Word) (rest : List HostMove) (i : Instr),
    s.busy = false → s.host = .command cw :: rest → decode cw = .ok i →
      step s = exec i { s with host := rest }

/-- R156: while busy the command port takes nothing. The step is the sequencer's own, and it touches neither the
host's moves nor the response nor the operand port. -/
def Obligations.CommandsWaitWhileBusy : Prop :=
  ∀ s : State, s.busy = true →
    (hostLeaves s.host → step s = sequencer s) ∧
    (∀ t, sequencer s = .next t → t.host = s.host ∧ t.response = s.response ∧ t.operands = s.operands)

/-- U5 (log entry 13, the model's choice): asked to run a command while busy, every meaning refuses by that name. -/
def Obligations.CommandRefusedWhileBusy : Prop :=
  ∀ (i : Instr) (s : State), s.busy = true → exec i s = .refused .commandWhileBusy

/-- The host's own moves (log entries 1, 2, 18, the model's choice): a passing step leaves the sequencer its step,
presenting the operand port waits for `busy = 0`, and a block that is not busy waits as it is. -/
def Obligations.HostMoves : Prop :=
  ∀ (s : State) (rest : List HostMove),
    (s.host = .pass :: rest → step s = sequencer { s with host := rest }) ∧
    (∀ o, s.host = .present o :: rest → s.busy = false →
      step s = .next { s with host := rest, operands := o }) ∧
    (s.busy = false → s.host = [] → step s = .next s)

/-! ## The commands (40 to 45) -/

/-- R141: NOP answers OK and 0 and changes nothing else, in Idle, Complete and Failed; a word of opcode 0 with
any of CW[27:0] set is rejected. -/
def Obligations.NopAnswersOk : Prop :=
  ∀ s : State, s.busy = false →
    exec .nop s = .next { s with response := some ⟨.ok, 0⟩ } ∧
    ∀ cw rest, s.host = .command cw :: rest → cwOp cw = 0x0#4 →
      step s = .next { s with
        host := rest
        response := some (if cw.extractLsb' 0 28 = 0 then ⟨.ok, 0⟩ else ⟨.reject, 0⟩) }

/-- R142: a legal LOADB latches `fmt`, `sstat`, LEN_IN, CAUSE_IN and B with ENTRY = 0, clears ERR, ERR_ACTUAL and
ERR_CAUSE, goes to Validating and answers OK; nothing else is written. A word of opcode 1 with any of CW[27:3] set, or
with `sstat` 1 or 3, is rejected. -/
def Obligations.LoadbAccepts : Prop :=
  ∀ s : State, s.busy = false →
    (∀ (fmt : Format) (sstat : SrcStatus), (sstat = .ok ∨ sstat = .ioFail) →
      exec (.loadb fmt sstat) s = .next { s with
        entry := .buffer, fmt := fmt, sstat := sstat
        len := s.operands.buf.len, cause := s.operands.causeIn, buf := s.operands.buf
        err := .clear, errActual := 0, errCause := 0
        phase := .validating
        response := some ⟨.ok, 0⟩ }) ∧
    ∀ cw rest, s.host = .command cw :: rest → cwOp cw = 0x1#4 →
      if cw.extractLsb' 3 25 = 0 ∧ (cw.extractLsb' 1 2 = 0#2 ∨ cw.extractLsb' 1 2 = 2#2) then
        step s = exec (.loadb (if cw.extractLsb' 0 1 = 0#1 then .burdaMan else .pixet)
          (if cw.extractLsb' 1 2 = 0#2 then .ok else .ioFail)) { s with host := rest }
      else step s = .next { s with host := rest, response := some ⟨.reject, 0⟩ }

/-- R143: LOADF does the same with ENTRY = 1, for each of the three values of `sstat`. A word of opcode 2 with any of
CW[27:3] set, or with `sstat` 3, is rejected. With `sstat` OK the two loads differ in ENTRY alone. -/
def Obligations.LoadfAccepts : Prop :=
  ∀ s : State, s.busy = false →
    (∀ (fmt : Format) (sstat : SrcStatus), exec (.loadf fmt sstat) s = .next { s with
      entry := .file, fmt := fmt, sstat := sstat
      len := s.operands.buf.len, cause := s.operands.causeIn, buf := s.operands.buf
      err := .clear, errActual := 0, errCause := 0
      phase := .validating
      response := some ⟨.ok, 0⟩ }) ∧
    (∀ cw rest, s.host = .command cw :: rest → cwOp cw = 0x2#4 →
      if cw.extractLsb' 3 25 = 0 ∧ cw.extractLsb' 1 2 ≠ 3#2 then
        step s = exec (.loadf (if cw.extractLsb' 0 1 = 0#1 then .burdaMan else .pixet)
          (if cw.extractLsb' 1 2 = 0#2 then .ok else if cw.extractLsb' 1 2 = 1#2 then .notFound else .ioFail))
          { s with host := rest }
      else step s = .next { s with host := rest, response := some ⟨.reject, 0⟩ }) ∧
    ∀ fmt, ∃ t, exec (.loadb fmt .ok) s = .next t ∧ exec (.loadf fmt .ok) s = .next { t with entry := .file }

/-- R144: ACCEPT, through either entry point and from each phase that is not busy. The latches take the command's
fields and the operand port, B is fixed, the error registers are cleared, PHASE is Validating; W is not written, and
the grid of the load before stops being readable. -/
def Obligations.AcceptStartsALoad : Prop :=
  ∀ (s : State) (entry : Entry) (fmt : Format) (sstat : SrcStatus), s.busy = false →
    (loadCommand entry fmt sstat).wf = true →
    ∃ t, exec (loadCommand entry fmt sstat) s = .next t ∧
      t.entry = entry ∧ t.fmt = fmt ∧ t.sstat = sstat ∧ t.len = s.operands.lenIn ∧ t.cause = s.operands.causeIn ∧
      t.buf = s.operands.buf ∧ t.err = .clear ∧ t.errActual = 0 ∧ t.errCause = 0 ∧ t.phase = .validating ∧
      (∀ k, wordRead t.w k = wordRead s.w k) ∧ ∀ c, grid t c = none

/-- R181: a LOADB that carries NOT_FOUND starts no load: it is answered REJECT and nothing else changes. -/
def Obligations.LoadbNeverNotFound : Prop :=
  ∀ (s : State) (fmt : Format), s.busy = false →
    exec (.loadb fmt .notFound) s = .next { s with response := some ⟨.reject, 0⟩ }

/-- R102: QCMAP answers `y = 255 - i[15:8]` in bits 15:8 and `x = i[7:0]` in bits 7:0; a word of opcode 8 with any
of CW[27:16] set is rejected. -/
def Obligations.QcmapAnswersTheCoordinate : Prop :=
  ∀ s : State, s.busy = false →
    (∀ i : Offset, exec (.qcmap i) s = .next { s with
      response := some ⟨.ok, 0#16 ++ ~~~(i.extractLsb' 8 8) ++ i.extractLsb' 0 8⟩ }) ∧
    (∀ cw rest, s.host = .command cw :: rest → cwOp cw = 0x8#4 →
      step s = .next { s with
        host := rest
        response := some (if cw.extractLsb' 16 12 = 0 then
          ⟨.ok, 0#16 ++ ~~~(cw.extractLsb' 8 8) ++ cw.extractLsb' 0 8⟩ else ⟨.reject, 0⟩) })

/-- R112: QBREV answers entry `v` of the table in bits 3:0; a word of opcode 9 with any of CW[27:4] set is
rejected. -/
def Obligations.QbrevAnswersTheEntry : Prop :=
  ∀ s : State, s.busy = false →
    (∀ v : Nibble, exec (.qbrev v) s = .next { s with response := some ⟨.ok, 0#28 ++ lut.get v.toFin⟩ }) ∧
    (∀ cw rest, s.host = .command cw :: rest → cwOp cw = 0x9#4 →
      step s = .next { s with
        host := rest
        response := some (if cw.extractLsb' 4 24 = 0 then
          ⟨.ok, 0#28 ++ lut.get (cw.extractLsb' 0 4).toFin⟩ else ⟨.reject, 0⟩) })

/-- R124: QFDEC answers FDEC(fmt, b) in bits 7:0 and does not touch FMT; a word of opcode 0xA with any of CW[27:9]
set is rejected. -/
def Obligations.QfdecAnswersTheByte : Prop :=
  ∀ s : State, s.busy = false →
    (∀ (f : Format) (b : Byte), exec (.qfdec f b) s = .next { s with
      response := some ⟨.ok, 0#24 ++ fdec f b⟩ }) ∧
    (∀ cw rest, s.host = .command cw :: rest → cwOp cw = 0xA#4 →
      step s = .next { s with
        host := rest
        response := some (if cw.extractLsb' 9 19 = 0 then
          ⟨.ok, 0#24 ++ fdec (if cw.extractLsb' 8 1 = 0#1 then .burdaMan else .pixet) (cw.extractLsb' 0 8)⟩
          else ⟨.reject, 0⟩) })

/-- R135: QWADDR answers the lane (the complement of y[1:0]) in bits 17:16 and the word index (x, then y[7:2]) in
bits 13:0; a word of opcode 0xB with any of CW[27:16] set is rejected. -/
def Obligations.QwaddrAnswersTheSlot : Prop :=
  ∀ s : State, s.busy = false →
    (∀ x y : Byte, exec (.qwaddr x y) s = .next { s with
      response := some ⟨.ok, 0#14 ++ ~~~(y.extractLsb' 0 2) ++ 0#2 ++ (x ++ y.extractLsb' 2 6)⟩ }) ∧
    (∀ cw rest, s.host = .command cw :: rest → cwOp cw = 0xB#4 →
      step s = .next { s with
        host := rest
        response := some (if cw.extractLsb' 16 12 = 0 then
          ⟨.ok, 0#14 ++ ~~~(cw.extractLsb' 8 2) ++ 0#2 ++ (cw.extractLsb' 0 8 ++ cw.extractLsb' 10 6)⟩
          else ⟨.reject, 0⟩) })

/-- R171: RDPIX answers, in Complete, lane `3 - (y mod 4)` of word `64x + (y >> 2)` in bits 7:0, and NOTREADY with
0 in every other phase; a word of opcode 3 with any of CW[27:16] set is rejected. -/
def Obligations.RdpixReadsThePixel : Prop :=
  ∀ s : State, s.busy = false →
    (∀ x y : Byte, exec (.rdpix x y) s = .next { s with
      response := some (if s.phase = .complete then
        ⟨.ok, (wordRead s.w (x ++ y.extractLsb' 2 6) >>> (8 * (3 - y.toNat % 4))) &&& 0xFF#32⟩
        else ⟨.notReady, 0⟩) }) ∧
    (∀ cw rest, s.host = .command cw :: rest → cwOp cw = 0x3#4 →
      if cw.extractLsb' 16 12 = 0 then
        step s = exec (.rdpix (cw.extractLsb' 0 8) (cw.extractLsb' 8 8)) { s with host := rest }
      else step s = .next { s with host := rest, response := some ⟨.reject, 0⟩ })

/-- R172: RDW answers, in Complete, word `k` of W, and NOTREADY with 0 in every other phase; a word of opcode 4 with
any of CW[27:14] set is rejected; RDPIX and RDW agree. -/
def Obligations.RdwReadsTheWord : Prop :=
  ∀ s : State, s.busy = false →
    (∀ k : WordIndex, exec (.rdw k) s = .next { s with
      response := some (if s.phase = .complete then ⟨.ok, wordRead s.w k⟩ else ⟨.notReady, 0⟩) }) ∧
    (∀ cw rest, s.host = .command cw :: rest → cwOp cw = 0x4#4 →
      if cw.extractLsb' 14 14 = 0 then step s = exec (.rdw (cw.extractLsb' 0 14)) { s with host := rest }
      else step s = .next { s with host := rest, response := some ⟨.reject, 0⟩ }) ∧
    (∀ x y : Byte, s.phase = .complete → ∃ p w : Word,
      exec (.rdpix x y) s = .next { s with response := some ⟨.ok, p⟩ } ∧
      exec (.rdw (BitVec.ofNat 14 (64 * x.toNat + y.toNat / 4))) s =
        .next { s with response := some ⟨.ok, w⟩ } ∧
      p = (w >>> (8 * (3 - y.toNat % 4))) &&& 0xFF#32)

/-- FRAME of NOP, RDPIX, RDW, QCMAP, QBREV, QFDEC and QWADDR: every register, every port but the response, and
every word of W stand (R46, R141, R171, R172, R193). -/
def Obligations.ReadsAndQueriesFrame : Prop :=
  ∀ (i : Instr) (s t : State), i.opcode ≠ .loadb → i.opcode ≠ .loadf → exec i s = .next t →
    t.phase = s.phase ∧ t.i = s.i ∧ t.fmt = s.fmt ∧ t.entry = s.entry ∧ t.sstat = s.sstat ∧ t.len = s.len ∧
    t.cause = s.cause ∧ t.err = s.err ∧ t.errActual = s.errActual ∧ t.errCause = s.errCause ∧ t.buf = s.buf ∧
    t.operands = s.operands ∧ t.host = s.host ∧ t.fresh = s.fresh ∧ t.statusPort = s.statusPort ∧
    ∀ k, wordRead t.w k = wordRead s.w k

/-- FRAME of LOADB and LOADF (R144): `i`, the operand port, the host's moves and every word of W stand. -/
def Obligations.LoadFrame : Prop :=
  ∀ (i : Instr) (s t : State), (i.opcode = .loadb ∨ i.opcode = .loadf) → exec i s = .next t →
    t.i = s.i ∧ t.operands = s.operands ∧ t.host = s.host ∧ t.fresh = s.fresh ∧
    ∀ k, wordRead t.w k = wordRead s.w k

/-! ## The pure functions (40 to 45) -/

/-- R100: CMAP by the source's formula and by its bit slices, with the corner cases. -/
def Obligations.CmapIsTheVerticalFlip : Prop :=
  (∀ i : Offset, (cmap i).x.toNat = i.toNat % 256 ∧ (cmap i).y.toNat = 255 - i.toNat / 256 ∧
    (cmap i).x = i.extractLsb' 0 8 ∧ (cmap i).y = ~~~(i.extractLsb' 8 8)) ∧
  cmap 0 = ⟨0, 255⟩ ∧ cmap 255 = ⟨255, 255⟩ ∧ cmap 256 = ⟨0, 254⟩ ∧ cmap 65280 = ⟨0, 0⟩ ∧
  cmap 65535 = ⟨255, 0⟩ ∧ cmap 0x1234 = ⟨52, 237⟩

/-- R101, R103: CMAP is a bijection from the 65,536 offsets onto the 65,536 coordinates, and
`256 * (255 - y) + x` is its inverse. -/
def Obligations.CmapIsABijection : Prop :=
  Function.Bijective cmap ∧
  (∀ c, (cmapInv c).toNat = 256 * (255 - c.y.toNat) + c.x.toNat) ∧
  (∀ c, cmap (cmapInv c) = c) ∧ (∀ i, cmapInv (cmap i) = i)

/-- R131: WADDR is a bijection onto words and lanes, with its bit slices and the read-back formulas; four rows sharing `y >> 2` fill
the four lanes of one word, the lowest in the most significant; and there are 64 words for each `x`. -/
def Obligations.WaddrIsABijection : Prop :=
  Function.Bijective waddr ∧
  (∀ c, (waddr c).index = c.x ++ c.y.extractLsb' 2 6 ∧ (waddr c).lane = ~~~(c.y.extractLsb' 0 2)) ∧
  (∀ c, c.x.toNat = (waddr c).index.toNat >>> 6 ∧
    c.y.toNat = 4 * ((waddr c).index.toNat % 64) + (3 - (waddr c).lane.toNat)) ∧
  (∀ (x y : Byte), y.toNat % 4 = 0 → ∀ n, n < 4 →
    (waddr ⟨x, y + BitVec.ofNat 8 n⟩).index = (waddr ⟨x, y⟩).index ∧
    (waddr ⟨x, y + BitVec.ofNat 8 n⟩).lane.toNat = 3 - n) ∧
  (∀ (x : Byte) (k : WordIndex),
    (∃ y, (waddr ⟨x, y⟩).index = k) ↔ 64 * x.toNat ≤ k.toNat ∧ k.toNat < 64 * x.toNat + 64)

/-- R48: the composed remap from flat offset to coordinate, word, lane and shift in bit slices, and that it is a
bijection. -/
def Obligations.RemapBySlices : Prop :=
  (∀ i : Offset, (cmap i).x = i.extractLsb' 0 8 ∧ (cmap i).y = ~~~(i.extractLsb' 8 8) ∧
    (waddr (cmap i)).index = i.extractLsb' 0 8 ++ ~~~(i.extractLsb' 10 6) ∧
    (waddr (cmap i)).lane = i.extractLsb' 8 2 ∧
    ∀ v : Byte, laneWord v (waddr (cmap i)).lane = v.setWidth 32 <<< (8 * (i.extractLsb' 8 2).toNat)) ∧
  Function.Bijective (fun i => waddr (cmap i))

/-- R21, R110, R111: the sixteen entries of the table; BREV4 reverses four bits; it is an involution. -/
def Obligations.BitReversalTable : Prop :=
  lut.toList = [0#4, 8#4, 4#4, 12#4, 2#4, 10#4, 6#4, 14#4, 1#4, 9#4, 5#4, 13#4, 3#4, 11#4, 7#4, 15#4] ∧
  (∀ v : Nibble, brev4 v = lut.get v.toFin) ∧
  (∀ (v : Nibble) (k : Nat), k < 4 → (brev4 v).getLsbD k = v.getLsbD (3 - k)) ∧
  (∀ v : Nibble, brev4 (brev4 v) = v)

/-- R120, R121, R122, R123: the dispatch; BurdaMan is the identity; Pixet bit by bit. -/
def Obligations.FormatDecoderBits : Prop :=
  (∀ b : Byte, fdec .burdaMan b = b) ∧
  (∀ b : Byte, fdec .pixet b = (b &&& 0x21#8) ||| ((brev4 (b.extractLsb' 1 4)).setWidth 8 <<< 1)) ∧
  ∀ b : Byte,
    (fdec .pixet b).getLsbD 0 = b.getLsbD 0 ∧ (fdec .pixet b).getLsbD 1 = b.getLsbD 4 ∧
    (fdec .pixet b).getLsbD 2 = b.getLsbD 3 ∧ (fdec .pixet b).getLsbD 3 = b.getLsbD 2 ∧
    (fdec .pixet b).getLsbD 4 = b.getLsbD 1 ∧ (fdec .pixet b).getLsbD 5 = b.getLsbD 5 ∧
    (fdec .pixet b).getLsbD 6 = false ∧ (fdec .pixet b).getLsbD 7 = false

/-- R127: the five laws of the Pixet variant. -/
def Obligations.PixetLaws : Prop :=
  (∀ b : Byte, fdecPx b = fdecPx (b &&& 0x3F#8)) ∧
  (∀ v : Byte, (∃ b, fdecPx b = v) ↔ v.toNat < 64) ∧
  (∀ v : Byte, v.toNat < 64 →
    ((List.range 256).filter fun n => decide (fdecPx (BitVec.ofNat 8 n) = v)).length = 4) ∧
  (∀ b : Byte, fdecPx (fdecPx b) = b &&& 0x3F#8) ∧
  (∀ b : Byte, fdecPx b = b &&& 0x3F#8 ↔ b.extractLsb' 1 4 ∈ [0b0000#4, 0b0110#4, 0b1001#4, 0b1111#4]) ∧
  fdecPx (fdecPx 0x02#8) = 0x02#8 ∧ fdecPx 0x02#8 = 0x10#8 ∧
  (∀ f, fdec f 0 = 0)

/-- R132: PACK ORs the shifted byte into the one word WADDR names; every other word is unchanged. -/
def Obligations.PackMergesOneWord : Prop :=
  ∀ (w : List WordCell) (c : Coord) (v : Byte) (k : WordIndex),
    wordRead (pack w c v) k =
      if k.toNat = 64 * c.x.toNat + c.y.toNat / 4
      then wordRead w k ||| (v.setWidth 32 <<< (8 * (3 - c.y.toNat % 4)))
      else wordRead w k

/-- R134, R136: a lane that held `u` holds `u ||| v` after PACK, so a lane that was 0 holds `v`; every other lane of
every word is as it was. -/
def Obligations.PackMergesOneLane : Prop :=
  ∀ (w : List WordCell) (c : Coord) (v : Byte),
    laneByte (wordRead (pack w c v) (waddr c).index) (waddr c).lane =
      laneByte (wordRead w (waddr c).index) (waddr c).lane ||| v ∧
    (laneByte (wordRead w (waddr c).index) (waddr c).lane = 0 →
      laneByte (wordRead (pack w c v) (waddr c).index) (waddr c).lane = v) ∧
    ∀ (k : WordIndex) (l : Lane), k ≠ (waddr c).index ∨ l ≠ (waddr c).lane →
      laneByte (wordRead (pack w c v) k) l = laneByte (wordRead w k) l

/-- R173: packing `v` at `(x, y)` into a zero word buffer and projecting `(x, y)` returns exactly `v`, and every other
coordinate projects to 0. -/
def Obligations.PackThenProject : Prop :=
  ∀ (w : List WordCell) (c : Coord) (v : Byte), (∀ k, wordRead w k = 0) →
    proj (pack w c v) c = v ∧ ∀ d, d ≠ c → proj (pack w c v) d = 0

/-! ## The sequencer (44_config_codec.md, 60_exceptions.md) -/

/-- R145, R184, R185: VSTEP looks at the source status first and the length second; a failure writes ERR, its payload
and PHASE and nothing else. -/
def Obligations.VstepFailsInOrder : Prop :=
  ∀ s : State, s.phase = .validating →
    (s.sstat = .notFound → sequencer s = .next { s with err := .notFound, phase := .failed }) ∧
    (s.sstat = .ioFail →
      sequencer s = .next { s with err := .ioFailure, errCause := s.cause, phase := .failed }) ∧
    (s.sstat = .ok → s.len ≠ 65536#32 →
      sequencer s = .next { s with err := .invalidSize, errActual := s.len, phase := .failed })

/-- R145, R146: when every check passes, VSTEP leaves all 16,384 words 0, `i` 0 and PHASE Decoding, and writes nothing
else. -/
def Obligations.VstepZeroesAndStarts : Prop :=
  ∀ s : State, s.phase = .validating → s.sstat = .ok → s.len = 65536#32 →
    ∃ t, sequencer s = .next t ∧ t = { s with w := t.w, i := 0, phase := .decoding } ∧
      ∀ k, wordRead t.w k = 0

/-- R147: DSTEP ORs the decoded byte at offset `i` into the one lane that CMAP and WADDR name, advances `i` by one,
and writes nothing else. -/
def Obligations.DstepPacksOneByte : Prop :=
  ∀ (s : State) (b : Byte), s.phase = .decoding → s.i.toNat < 65536 → bufferRead s.buf s.i.toNat = some b →
    ∃ t, sequencer s = .next t ∧ t = { s with w := t.w, i := t.i } ∧ t.i.toNat = s.i.toNat + 1 ∧
      ∀ k, wordRead t.w k =
        if k.toNat = 64 * (s.i.toNat % 256) + (255 - s.i.toNat / 256) / 4
        then wordRead s.w k ||| ((fdec s.fmt b).setWidth 32 <<< (8 * (3 - (255 - s.i.toNat / 256) % 4)))
        else wordRead s.w k

/-- R148, R15: CSTEP makes PHASE Complete, so busy falls and done rises, and writes nothing else but the latches it
discards, whose values stay open (log entry 8). -/
def Obligations.CstepCompletes : Prop :=
  ∀ s : State, s.phase = .decoding → s.i.toNat = 65536 →
    ∃ t, sequencer s = .next t ∧
      t = { s with
        phase := .complete, entry := t.entry, sstat := t.sstat, len := t.len, cause := t.cause, fresh := t.fresh } ∧
      t.busy = false ∧ t.done = true

/-- R140: the complete transition table of PHASE. -/
def Obligations.PhaseTransitions : Prop :=
  ∀ s t : State, step s = .next t →
    t.phase = s.phase ∨
    (s.busy = false ∧ t.phase = .validating ∧
      ∃ cw rest i, s.host = .command cw :: rest ∧ decode cw = .ok i ∧ (i.opcode = .loadb ∨ i.opcode = .loadf)) ∨
    (s.phase = .validating ∧ t.phase = .failed ∧ (s.sstat ≠ .ok ∨ s.len ≠ 65536#32)) ∨
    (s.phase = .validating ∧ t.phase = .decoding ∧ s.sstat = .ok ∧ s.len = 65536#32) ∨
    (s.phase = .decoding ∧ t.phase = .complete ∧ s.i.toNat = 65536) ∨
    (t.phase = .idle ∧ ∃ rest, s.host = .reset :: rest)

/-- R149: Failed is terminal for the load. RDPIX and RDW answer NOTREADY, and the block stays in Failed with its error
registers until a LOADB or LOADF is taken or reset is applied. -/
def Obligations.FailedIsTerminal : Prop :=
  ∀ s : State, s.phase = .failed →
    (∀ x y, exec (.rdpix x y) s = .next { s with response := some ⟨.notReady, 0⟩ }) ∧
    (∀ k, exec (.rdw k) s = .next { s with response := some ⟨.notReady, 0⟩ }) ∧
    ∀ t, step s = .next t →
      (t.phase = .failed ∧ t.err = s.err ∧ t.errActual = s.errActual ∧ t.errCause = s.errCause) ∨
      (∃ rest, s.host = .reset :: rest) ∨
      (∃ cw rest i, s.host = .command cw :: rest ∧ decode cw = .ok i ∧ (i.opcode = .loadb ∨ i.opcode = .loadf) ∧
        t.phase = .validating ∧ t.err = .clear ∧ t.errActual = 0 ∧ t.errCause = 0)

/-- R196: a load fails before the first write to W or not at all: the step into Failed comes from Validating and
leaves every word of W as it was. -/
def Obligations.FailuresArePrecise : Prop :=
  ∀ s t : State, step s = .next t → s.phase ≠ .failed → t.phase = .failed →
    s.phase = .validating ∧ ∀ k, wordRead t.w k = wordRead s.w k

/-- R22, R174: only VSTEP's zeroing and DSTEP write W; reset, after which W is unspecified, is the only other step
that may change it. -/
def Obligations.OnlyTheSequencerWritesW : Prop :=
  ∀ s t : State, step s = .next t → (∀ rest, s.host ≠ .reset :: rest) →
    (∃ k, wordRead t.w k ≠ wordRead s.w k) →
      (s.phase = .validating ∧ t.phase = .decoding ∧ ∀ k, wordRead t.w k = 0) ∨
      (s.phase = .decoding ∧ t.phase = .decoding ∧ t.i.toNat = s.i.toNat + 1)

/-- R158, R28: outside Complete nothing of W, of `i` or of the latches can be seen: two states that differ only in
them look the same, and no command answers differently. -/
def Obligations.WordsHiddenOutsideComplete : Prop :=
  ∀ (s : State) (w : List WordCell) (i : Counter) (entry : Entry) (sstat : SrcStatus) (len : Length) (cause : Cause),
    s.phase ≠ .complete →
      let u := { s with w := w, i := i, entry := entry, sstat := sstat, len := len, cause := cause }
      s.visible = u.visible ∧ (∀ c, grid s c = none) ∧
      ∀ (c : Instr) (t : State), exec c s = .next t → ∃ v, exec c u = .next v ∧ v.response = t.response

/-! ## A whole load (R151 to R157) -/

/-- R151, R153, failing arms: a load whose source status is not OK or whose length is not 65,536 ends in Failed after
two steps, with the failure R151 gives and W as it was before the command. -/
def Obligations.FailingLoadOutcome : Prop :=
  ∀ (s : State) (entry : Entry) (fmt : Format) (sstat : SrcStatus) (rest : List HostMove),
    loadAtPort s entry fmt sstat rest → (sstat ≠ .ok ∨ s.operands.buf.len ≠ 65536#32) →
    (∃ u, steps 1 s = .next u ∧ u.busy = true) ∧
    ∃ t, steps 2 s = .next t ∧ t.phase = .failed ∧ t.busy = false ∧ t.fmt = fmt ∧ t.w = s.w ∧ t.host = rest ∧
      match sstat with
      | .notFound => t.err = .notFound ∧ t.errActual = 0 ∧ t.errCause = 0
      | .ioFail => t.err = .ioFailure ∧ t.errActual = 0 ∧ t.errCause = s.operands.causeIn
      | .ok => t.err = .invalidSize ∧ t.errActual = s.operands.buf.len ∧ t.errCause = 0

/-- R151, R153, the completing arm: a load of 65,536 bytes is busy for 65,538 steps and with the next, 65,539 in all,
is in Complete, with every pixel the decoded byte of its place in the buffer, in the three forms R151 gives. -/
def Obligations.CompletedLoadOutcome : Prop :=
  ∀ (s : State) (entry : Entry) (fmt : Format) (rest : List HostMove),
    loadAtPort s entry fmt .ok rest → s.operands.buf.len = 65536#32 →
    (∀ n, 0 < n → n < 65539 → ∃ u, steps n s = .next u ∧ u.busy = true) ∧
    ∃ t, steps 65539 s = .next t ∧ t.phase = .complete ∧ t.err = .clear ∧ t.fmt = fmt ∧ t.host = rest ∧
      (∀ x y b : Byte, bufferRead s.operands.buf (256 * (255 - y.toNat) + x.toNat) = some b →
        grid t ⟨x, y⟩ = some (fdec fmt b)) ∧
      (∀ (i : Offset) (b : Byte), bufferRead s.operands.buf i.toNat = some b →
        grid t ⟨BitVec.ofNat 8 (i.toNat % 256), BitVec.ofNat 8 (255 - i.toNat / 256)⟩ = some (fdec fmt b)) ∧
      (∀ (k : WordIndex) (b3 b2 b1 b0 : Byte),
        bufferRead s.operands.buf (256 * (255 - 4 * (k.toNat % 64)) + k.toNat / 64) = some b3 →
        bufferRead s.operands.buf (256 * (255 - 4 * (k.toNat % 64) - 1) + k.toNat / 64) = some b2 →
        bufferRead s.operands.buf (256 * (255 - 4 * (k.toNat % 64) - 2) + k.toNat / 64) = some b1 →
        bufferRead s.operands.buf (256 * (255 - 4 * (k.toNat % 64) - 3) + k.toNat / 64) = some b0 →
        wordRead t.w k = fdec fmt b3 ++ fdec fmt b2 ++ fdec fmt b1 ++ fdec fmt b0)

/-- R154: a buffer of exactly 65,536 zero bytes yields, under both formats, a grid of zeros and words of zero. -/
def Obligations.AllZeroLoad : Prop :=
  ∀ (s : State) (entry : Entry) (fmt : Format) (rest : List HostMove),
    loadAtPort s entry fmt .ok rest → s.operands.buf.len = 65536#32 →
    (∀ i, i < 65536 → bufferRead s.operands.buf i = some 0) →
    ∃ t, steps 65539 s = .next t ∧ t.phase = .complete ∧ (∀ c, grid t c = some 0) ∧ ∀ k, wordRead t.w k = 0

/-- R157: byte 0 is 0xFF and all others 0, loaded as BurdaMan: pixel (0, 255) is 0xFF and every other is 0; word 63 is
0x000000FF and every other is 0. -/
def Obligations.SingleByteLoad : Prop :=
  ∀ (s : State) (entry : Entry) (rest : List HostMove),
    loadAtPort s entry .burdaMan .ok rest → s.operands.buf.len = 65536#32 →
    (∀ i, i < 65536 → bufferRead s.operands.buf i = some (if i = 0 then 0xFF#8 else 0)) →
    ∃ t, steps 65539 s = .next t ∧ t.phase = .complete ∧
      (∀ c, grid t c = some (if c = ⟨0, 255⟩ then 0xFF#8 else 0)) ∧
      ∀ k, wordRead t.w k = if k = 63#14 then 0x000000FF#32 else 0

/-- R150: nothing a previous load did can influence the outcome of the next. Two blocks that are not busy, with the same
load at the port and the same operands and moves to come, look the same to the host from then on, whatever their
other registers hold. The moves to come may hold a reset, after which R211 and U8 leave FMT unspecified: that the two
blocks then show the same FMT bit and no response is the model's choice (log entries 3, 5 and 17). -/
def Obligations.NoCarriedState : Prop :=
  ∀ (s1 s2 : State) (entry : Entry) (fmt : Format) (sstat : SrcStatus) (cw : Word) (rest : List HostMove),
    s1.busy = false → s2.busy = false → s1.host = .command cw :: rest → s2.host = .command cw :: rest →
    decode cw = .ok (loadCommand entry fmt sstat) → s1.operands = s2.operands →
    ∀ n t1, steps (n + 1) s1 = .next t1 → ∃ t2, steps (n + 1) s2 = .next t2 ∧ t1.visible = t2.visible

/-! ## Invariants, safety, reset -/

/-- R25: the invariants hold in the machine right after reset. -/
def Obligations.ResetMeetsTheInvariant : Prop := State.reset.Inv ∧ State.reset.canonical = true

/-- R25: every step keeps the invariants, from every state that has them. -/
def Obligations.StepKeepsTheInvariant : Prop := ∀ s t : State, s.Inv → step s = .next t → t.Inv

/-- R22, R42 (log entries 6, 7): every step keeps the words of W and the bytes of the buffers in their canonical
form. -/
def Obligations.StepKeepsTheCanonicalForm : Prop :=
  ∀ s t : State, s.canonical = true → step s = .next t → t.canonical = true

/-- R22 (log entry 6): the canonical form is one per contents: word arrays that read the same are the same data. -/
def Obligations.EqualWordsAreEqualData : Prop :=
  ∀ w v : List WordCell, wordsWf w = true → wordsWf v = true → (∀ k, wordRead w k = wordRead v k) → w = v

/-- R41, R153, R221: a state that has the invariants never stops: every step answers a next state, so no fetch falls
outside the buffer and the sequencer is never stuck. -/
def Obligations.InvariantStatesStepSafely : Prop := ∀ s : State, s.Inv → s.stepsSafely

/-- R153, R221: in every busy state with the invariants exactly one internal step is enabled, and it makes progress:
VSTEP leaves Validating, DSTEP advances `i`, CSTEP leaves Decoding. -/
def Obligations.BusyBlockMakesProgress : Prop :=
  ∀ s : State, s.Inv → s.busy = true → ∃ t, sequencer s = .next t ∧
    ((s.phase = .validating ∧ (t.phase = .failed ∨ t.phase = .decoding ∧ t.i = 0)) ∨
     (s.phase = .decoding ∧ s.i.toNat < 65536 ∧ t.phase = .decoding ∧ t.i.toNat = s.i.toNat + 1) ∨
     (s.phase = .decoding ∧ s.i.toNat = 65536 ∧ t.phase = .complete))

/-- R56: the flat form of the grid is `G[256 * y + x] = Grid(x, y)`; in Complete it is
`FDEC(FMT, B[256 * (255 - y) + x])`, the rows in reverse. -/
def Obligations.FlatGridReversesTheRows : Prop :=
  (∀ (s : State) (x y : Byte), gridFlat s (BitVec.ofNat 16 (256 * y.toNat + x.toNat)) = grid s ⟨x, y⟩) ∧
  ∀ (s : State) (x y b : Byte), s.Inv → s.phase = .complete →
    bufferRead s.buf (256 * (255 - y.toNat) + x.toNat) = some b →
    gridFlat s (BitVec.ofNat 16 (256 * y.toNat + x.toNat)) = some (fdec s.fmt b)

/-- R211: reset, applied in any state, leaves PHASE Idle and the error registers clear, the flags 0, RDPIX and RDW
unready and the query commands working. Nothing is said of the registers it leaves unspecified. -/
def Obligations.ResetInAnyState : Prop :=
  ∀ (s : State) (rest : List HostMove), s.host = .reset :: rest →
    ∃ t, step s = .next t ∧ t.phase = .idle ∧ t.err = .clear ∧ t.errActual = 0 ∧ t.errCause = 0 ∧
      t.host = rest ∧ t.busy = false ∧ t.done = false ∧ t.fail = false ∧
      t.statusPort.phase = 0#3 ∧ t.statusPort.err = 0#2 ∧ t.statusPort.errExpected = 65536#32 ∧
      t.statusPort.errActual = 0 ∧ t.statusPort.errCause = 0 ∧
      (∀ x y, exec (.rdpix x y) t = .next { t with response := some ⟨.notReady, 0⟩ }) ∧
      (∀ k, exec (.rdw k) t = .next { t with response := some ⟨.notReady, 0⟩ }) ∧
      (∀ i, exec (.qcmap i) t = .next { t with response := some ⟨.ok, 0#16 ++ (cmap i).y ++ (cmap i).x⟩ }) ∧
      (∀ v, exec (.qbrev v) t = .next { t with response := some ⟨.ok, 0#28 ++ brev4 v⟩ }) ∧
      (∀ f b, exec (.qfdec f b) t = .next { t with response := some ⟨.ok, 0#24 ++ fdec f b⟩ }) ∧
      (∀ x y, exec (.qwaddr x y) t = .next { t with
        response := some ⟨.ok, 0#14 ++ (waddr ⟨x, y⟩).lane ++ 0#2 ++ (waddr ⟨x, y⟩).index⟩ })

/-- R12, R16, R17, R20, R28: what the status port shows, with the codes the spec gives. -/
def Obligations.StatusPortShows : Prop :=
  ∀ s : State,
    s.statusPort.phase = (match s.phase with
      | .idle => 0#3 | .validating => 1#3 | .decoding => 2#3 | .complete => 3#3 | .failed => 4#3) ∧
    (s.statusPort.busy = true ↔ s.statusPort.phase = 1#3 ∨ s.statusPort.phase = 2#3) ∧
    (s.statusPort.done = true ↔ s.statusPort.phase = 3#3) ∧
    (s.statusPort.fail = true ↔ s.statusPort.phase = 4#3) ∧
    s.statusPort.fmt = (match s.fmt with | .burdaMan => 0#1 | .pixet => 1#1) ∧
    s.statusPort.err = (match s.err with
      | .clear => 0#2 | .notFound => 1#2 | .invalidSize => 2#2 | .ioFailure => 3#2) ∧
    s.statusPort.errExpected = 65536#32 ∧ s.statusPort.errActual = s.errActual ∧
    s.statusPort.errCause = s.errCause

/-- R55: a step of one block leaves every other block of a system as it is. -/
def Obligations.BlocksShareNothing : Prop :=
  ∀ (n : Nat) (blocks after : Vector State n) (b : Fin n), stepBlock blocks b = .next after →
    step (blocks.get b) = .next (after.get b) ∧ ∀ c, c ≠ b → after.get c = blocks.get c

/-- R80: WAIT stands for no command at all: a listing means the same with its WAIT lines taken out. -/
def Obligations.WaitIsNoCommand : Prop :=
  ∀ l : List Line, listingMoves (l.filter fun line => decide (line ≠ .wait)) = listingMoves l
end

