-- ==== Sys2Proof/Laws/Cells.lean ====
section
/-! SUPPORT. The sparse arrays: a read after a write, and that every operation keeps the canonical form. -/

namespace Sys2Proof.Machine

@[simp] theorem cellsRead_nil {n : Nat} (k : Nat) : cellsRead ([] : List (Nat × BitVec n)) k = 0 := rfl

theorem cellsRead_erase_same {n : Nat} (m : List (Nat × BitVec n)) (k : Nat) :
    cellsRead (cellsErase m k) k = 0 := by
  induction m with
  | nil => rfl
  | cons c rest ih => obtain ⟨a, u⟩ := c; by_cases h : a = k <;> simp [cellsErase, cellsRead, h, ih]

theorem cellsRead_erase_other {n : Nat} (m : List (Nat × BitVec n)) {j k : Nat} (hjk : j ≠ k) :
    cellsRead (cellsErase m k) j = cellsRead m j := by
  induction m with
  | nil => rfl
  | cons c rest ih =>
    obtain ⟨a, u⟩ := c
    by_cases h : a = k
    · simp [cellsErase, cellsRead, h, ih, Ne.symm hjk]
    · simp [cellsErase, cellsRead, h, ih]

theorem cellsRead_insert_erased {n : Nat} (m : List (Nat × BitVec n)) (k : Nat) (v : BitVec n) :
    cellsRead (cellsInsert (cellsErase m k) k v) k = v := by
  induction m with
  | nil => simp [cellsErase, cellsInsert, cellsRead]
  | cons c rest ih =>
    obtain ⟨a, u⟩ := c
    by_cases h : a = k
    · simp [cellsErase, h, ih]
    · by_cases hlt : k < a <;> simp [cellsErase, cellsInsert, cellsRead, h, hlt, ih]

theorem cellsRead_insert_other {n : Nat} (m : List (Nat × BitVec n)) {j k : Nat} (v : BitVec n) (hjk : j ≠ k) :
    cellsRead (cellsInsert m k v) j = cellsRead m j := by
  induction m with
  | nil => simp [cellsInsert, cellsRead, Ne.symm hjk]
  | cons c rest ih =>
    obtain ⟨a, u⟩ := c
    by_cases hlt : k < a <;> simp [cellsInsert, cellsRead, hlt, ih, Ne.symm hjk]

/-- A read of the index written gives the value written, whatever the list held. -/
@[simp] theorem cellsRead_write_same {n : Nat} (m : List (Nat × BitVec n)) (k : Nat) (v : BitVec n) :
    cellsRead (cellsWrite m k v) k = v := by
  by_cases h : v = 0
  · simp [cellsWrite, h, cellsRead_erase_same]
  · rw [cellsWrite, if_neg h, cellsRead_insert_erased]

/-- A read of any other index is unchanged. -/
theorem cellsRead_write_other {n : Nat} (m : List (Nat × BitVec n)) {j k : Nat} (v : BitVec n) (hjk : j ≠ k) :
    cellsRead (cellsWrite m k v) j = cellsRead m j := by
  by_cases h : v = 0
  · simp [cellsWrite, h, cellsRead_erase_other m hjk]
  · rw [cellsWrite, if_neg h, cellsRead_insert_other _ v hjk, cellsRead_erase_other m hjk]

theorem cellsWf_cons {n bound a : Nat} {v : BitVec n} {rest : List (Nat × BitVec n)} :
    cellsWf bound ((a, v) :: rest) = true ↔
      a < bound ∧ v ≠ 0 ∧ (∀ c ∈ rest, a < c.1) ∧ cellsWf bound rest = true := by
  simp [cellsWf, and_assoc]

theorem mem_cellsErase {n k : Nat} {m : List (Nat × BitVec n)} {c : Nat × BitVec n}
    (h : c ∈ cellsErase m k) : c ∈ m ∧ c.1 ≠ k := by
  induction m with
  | nil => simp [cellsErase] at h
  | cons d rest ih =>
    obtain ⟨a, u⟩ := d
    by_cases hak : a = k
    · rw [cellsErase, if_pos hak] at h
      exact ⟨List.mem_cons_of_mem _ (ih h).1, (ih h).2⟩
    · rw [cellsErase, if_neg hak] at h
      rcases List.mem_cons.1 h with rfl | h
      · exact ⟨List.mem_cons_self, hak⟩
      · exact ⟨List.mem_cons_of_mem _ (ih h).1, (ih h).2⟩

theorem mem_cellsInsert {n k : Nat} {v : BitVec n} {m : List (Nat × BitVec n)} {c : Nat × BitVec n}
    (h : c ∈ cellsInsert m k v) : c = (k, v) ∨ c ∈ m := by
  induction m with
  | nil => simpa [cellsInsert] using h
  | cons d rest ih =>
    obtain ⟨a, u⟩ := d
    by_cases hka : k < a
    · rw [cellsInsert, if_pos hka] at h
      exact List.mem_cons.1 h
    · rw [cellsInsert, if_neg hka] at h
      rcases List.mem_cons.1 h with rfl | h
      · exact .inr List.mem_cons_self
      · exact (ih h).imp_right (List.mem_cons_of_mem _)

theorem cellsWf_erase {n bound : Nat} {m : List (Nat × BitVec n)} (k : Nat) (h : cellsWf bound m = true) :
    cellsWf bound (cellsErase m k) = true := by
  induction m with
  | nil => rfl
  | cons c rest ih =>
    obtain ⟨a, u⟩ := c
    obtain ⟨ha, hu, hlt, hrest⟩ := cellsWf_cons.1 h
    by_cases hak : a = k
    · simpa [cellsErase, hak] using ih hrest
    · rw [cellsErase, if_neg hak]
      exact cellsWf_cons.2 ⟨ha, hu, fun c hc => hlt c (mem_cellsErase hc).1, ih hrest⟩

theorem cellsWf_insert {n bound k : Nat} {v : BitVec n} {m : List (Nat × BitVec n)} (hk : k < bound) (hv : v ≠ 0)
    (hm : cellsWf bound m = true) (hnot : ∀ c ∈ m, c.1 ≠ k) : cellsWf bound (cellsInsert m k v) = true := by
  induction m with
  | nil => exact cellsWf_cons.2 ⟨hk, hv, by simp, rfl⟩
  | cons c rest ih =>
    obtain ⟨a, u⟩ := c
    obtain ⟨ha, hu, hlt, hrest⟩ := cellsWf_cons.1 hm
    by_cases hka : k < a
    · rw [cellsInsert, if_pos hka]
      refine cellsWf_cons.2 ⟨hk, hv, fun c hc => ?_, hm⟩
      rcases List.mem_cons.1 hc with rfl | hc
      · exact hka
      · exact hka.trans (hlt c hc)
    · rw [cellsInsert, if_neg hka]
      have hak : a < k := lt_of_le_of_ne (not_lt.1 hka) (hnot (a, u) List.mem_cons_self)
      refine cellsWf_cons.2 ⟨ha, hu, fun c hc => ?_, ih hrest fun c hc => hnot c (List.mem_cons_of_mem _ hc)⟩
      rcases mem_cellsInsert hc with rfl | hc
      · exact hak
      · exact hlt c hc

/-- A write keeps the canonical form. -/
theorem cellsWf_write {n bound k : Nat} (v : BitVec n) {m : List (Nat × BitVec n)} (hk : k < bound)
    (hm : cellsWf bound m = true) : cellsWf bound (cellsWrite m k v) = true := by
  by_cases hv : v = 0
  · simpa [cellsWrite, hv] using cellsWf_erase k hm
  · rw [cellsWrite, if_neg hv]
    exact cellsWf_insert hk hv (cellsWf_erase k hm) fun c hc => (mem_cellsErase hc).2

/-- An index below every listed one holds 0. -/
theorem cellsRead_below {n k : Nat} {m : List (Nat × BitVec n)} (h : ∀ c ∈ m, k < c.1) : cellsRead m k = 0 := by
  induction m with
  | nil => rfl
  | cons c rest ih =>
    obtain ⟨a, u⟩ := c
    have ha : k < a := h (a, u) List.mem_cons_self
    simp [cellsRead, Nat.ne_of_gt ha, ih fun c hc => h c (List.mem_cons_of_mem _ hc)]

/-! The word array. -/

@[simp] theorem wordRead_zero (k : WordIndex) : wordRead wordsZero k = 0 := rfl

@[simp] theorem wordRead_write_same (w : List WordCell) (k : WordIndex) (v : Word) :
    wordRead (wordWrite w k v) k = v := cellsRead_write_same w k.toNat v

theorem wordRead_write_other (w : List WordCell) {j k : WordIndex} (v : Word) (h : j ≠ k) :
    wordRead (wordWrite w k v) j = wordRead w j :=
  cellsRead_write_other w v fun e => h (BitVec.eq_of_toNat_eq e)

theorem wordsWf_zero : wordsWf wordsZero = true := rfl

/-- A write to the word array keeps its canonical form. -/
theorem wordsWf_write {w : List WordCell} (k : WordIndex) (v : Word) (h : wordsWf w = true) :
    wordsWf (wordWrite w k v) = true := cellsWf_write v k.isLt h

/-! The buffer. -/

theorem bufferRead_isSome (b : Buffer) (i : Nat) : (bufferRead b i).isSome = true ↔ i < b.len.toNat := by
  simp only [bufferRead]; split <;> simp_all

theorem bufferRead_of_lt {b : Buffer} {i : Nat} (h : i < b.len.toNat) :
    bufferRead b i = some (cellsRead b.cells i) := by simp [bufferRead, h]

theorem bufferRead_of_le {b : Buffer} {i : Nat} (h : b.len.toNat ≤ i) : bufferRead b i = none := by
  simp [bufferRead, Nat.not_lt.2 h]

end Sys2Proof.Machine
end

