-- ==== Sys2Proof/Laws/Datapath.lean ====
section
/-! SUPPORT. The pure functions as numbers, and what a byte lane holds after an OR-merge. -/

namespace Sys2Proof.Machine

/-! CMAP and WADDR as numbers. -/

theorem cmap_x_toNat (i : Offset) : (cmap i).x.toNat = i.toNat % 256 := by
  simp [cmap]

theorem cmap_y_toNat (i : Offset) : (cmap i).y.toNat = 255 - i.toNat / 256 := by
  have := i.isLt
  simp only [cmap, BitVec.toNat_ofNat]
  omega

theorem cmapInv_toNat (c : Coord) : (cmapInv c).toNat = 256 * (255 - c.y.toNat) + c.x.toNat := by
  have hx := c.x.isLt
  simp only [cmapInv, BitVec.toNat_ofNat]
  omega

theorem waddr_index_toNat (c : Coord) : (waddr c).index.toNat = 64 * c.x.toNat + c.y.toNat / 4 := by
  have hx := c.x.isLt
  have hy := c.y.isLt
  simp only [waddr, BitVec.toNat_ofNat, Nat.shiftRight_eq_div_pow]
  omega

theorem waddr_lane_toNat (c : Coord) : (waddr c).lane.toNat = 3 - c.y.toNat % 4 := by
  simp only [waddr, BitVec.toNat_ofNat]
  omega

theorem Coord.ext_toNat {c d : Coord} (hx : c.x.toNat = d.x.toNat) (hy : c.y.toNat = d.y.toNat) : c = d := by
  cases c; cases d
  simp only [Coord.mk.injEq]
  exact ⟨BitVec.eq_of_toNat_eq hx, BitVec.eq_of_toNat_eq hy⟩

/-! RDATA as the concatenations of R84. -/

theorem rdataByte_eq_append (b : Byte) : rdataByte b = 0#24 ++ b := by
  apply BitVec.eq_of_getLsbD_eq
  intro k hk
  simp only [rdataByte, BitVec.getLsbD_setWidth, BitVec.getLsbD_append]
  interval_cases k <;> simp

theorem rdataNibble_eq_append (v : Nibble) : rdataNibble v = 0#28 ++ v := by
  apply BitVec.eq_of_getLsbD_eq
  intro k hk
  simp only [rdataNibble, BitVec.getLsbD_setWidth, BitVec.getLsbD_append]
  interval_cases k <;> simp

theorem rdataCoord_eq_append (c : Coord) : rdataCoord c = 0#16 ++ c.y ++ c.x := by
  apply BitVec.eq_of_getLsbD_eq
  intro k hk
  simp only [rdataCoord, BitVec.getLsbD_or, BitVec.getLsbD_shiftLeft, BitVec.getLsbD_setWidth,
    BitVec.getLsbD_append]
  interval_cases k <;> simp

theorem rdataSlot_eq_append (p : Slot) : rdataSlot p = 0#14 ++ p.lane ++ 0#2 ++ p.index := by
  apply BitVec.eq_of_getLsbD_eq
  intro k hk
  simp only [rdataSlot, BitVec.getLsbD_or, BitVec.getLsbD_shiftLeft, BitVec.getLsbD_setWidth,
    BitVec.getLsbD_append]
  interval_cases k <;> simp

/-! Byte lanes. -/

/-- A byte lane distributes over OR: an OR cannot carry (R133). -/
theorem laneByte_or (a b : Word) (l : Lane) : laneByte (a ||| b) l = laneByte a l ||| laneByte b l := by
  apply BitVec.eq_of_getLsbD_eq
  intro k hk
  simp [laneByte, hk, Bool.and_or_distrib_right]

@[simp] theorem laneByte_zero (l : Lane) : laneByte 0#32 l = 0#8 := by
  simp [laneByte]

/-- The four lanes, by number. -/
theorem lane_cases (l : Lane) : l = 0#2 ∨ l = 1#2 ∨ l = 2#2 ∨ l = 3#2 := by
  revert l; decide

/-- A lane is the field `w[8L+7 : 8L]` (R43). -/
theorem laneByte_eq_extract (w : Word) (l : Lane) : laneByte w l = w.extractLsb' (8 * l.toNat) 8 := by
  apply BitVec.eq_of_getLsbD_eq
  intro k hk
  have h255 : (255#32).getLsbD k = true := by interval_cases k <;> rfl
  simp only [laneByte, BitVec.getLsbD_setWidth, hk, decide_true, Bool.true_and, BitVec.getLsbD_and,
    BitVec.getLsbD_ushiftRight, h255, Bool.and_true, BitVec.getLsbD_extractLsb']

/-- The shifted byte in its own lane is the byte (R43). -/
@[simp] theorem laneByte_laneWord_same (v : Byte) (l : Lane) : laneByte (laneWord v l) l = v := by
  rw [laneByte_eq_extract]
  apply BitVec.eq_of_getLsbD_eq
  intro k hk
  have hl := l.isLt
  have h1 : 8 * l.toNat + k < 32 := by omega
  have h2 : k < 32 := by omega
  have h3 : ¬ 8 * l.toNat + k < 8 * l.toNat := by omega
  simp only [laneWord, BitVec.getLsbD_extractLsb', hk, decide_true, Bool.true_and, BitVec.getLsbD_shiftLeft, h1, h3,
    decide_false, Bool.not_false, Nat.add_sub_cancel_left, BitVec.getLsbD_setWidth, h2]

/-- The shifted byte is 0 in every other lane (R132). -/
theorem laneByte_laneWord_other (v : Byte) {l m : Lane} (h : l ≠ m) : laneByte (laneWord v m) l = 0 := by
  rw [laneByte_eq_extract]
  apply BitVec.eq_of_getLsbD_eq
  intro k hk
  have hne : l.toNat ≠ m.toNat := fun e => h (BitVec.eq_of_toNat_eq e)
  simp only [laneWord, BitVec.getLsbD_extractLsb', hk, decide_true, Bool.true_and, BitVec.getLsbD_shiftLeft,
    BitVec.getLsbD_setWidth, BitVec.ofNat_eq_ofNat, BitVec.getLsbD_zero, Bool.and_eq_false_imp]
  intro h1
  by_cases hlt : l.toNat < m.toNat
  · have : 8 * l.toNat + k < 8 * m.toNat := by omega
    simp [this] at h1
  · have : 8 ≤ 8 * l.toNat + k - 8 * m.toNat := by omega
    simp [BitVec.getLsbD_of_ge _ _ this]

end Sys2Proof.Machine
end

