-- ==== Sys2Proof/Laws/PerInstr.lean ====
section
/-! SUPPORT. The per-instruction family MaskMatch: the word of a command has the opcode field and the fixed bits
that its row of R76 gives it. -/

namespace Sys2Proof.Laws.MaskMatch

/-- The word of `i` carries its row's opcode, and under the row's mask it is the row's match (R76). -/
def Statement (i : Instr) : Prop :=
  cwOp (encode i) = i.opcode.code ∧ encode i &&& i.opcode.maskBits = i.opcode.matchBits

theorem nop : Statement .nop := by unfold Statement; decide

theorem loadb (fmt : Format) (sstat : SrcStatus) : Statement (.loadb fmt sstat) := by
  unfold Statement; cases fmt <;> cases sstat <;> decide

theorem loadf (fmt : Format) (sstat : SrcStatus) : Statement (.loadf fmt sstat) := by
  unfold Statement; cases fmt <;> cases sstat <;> decide

theorem rdpix (x y : Byte) : Statement (.rdpix x y) := by
  constructor <;> apply BitVec.eq_of_getLsbD_eq <;> intro k hk <;> interval_cases k <;>
    simp [encode, Instr.opcode, Opcode.code, cwOp, Opcode.maskBits, Opcode.matchBits]

theorem rdw (k : WordIndex) : Statement (.rdw k) := by
  constructor <;> apply BitVec.eq_of_getLsbD_eq <;> intro n hn <;> interval_cases n <;>
    simp [encode, Instr.opcode, Opcode.code, cwOp, Opcode.maskBits, Opcode.matchBits]

theorem qcmap (i : Offset) : Statement (.qcmap i) := by
  constructor <;> apply BitVec.eq_of_getLsbD_eq <;> intro k hk <;> interval_cases k <;>
    simp [encode, Instr.opcode, Opcode.code, cwOp, Opcode.maskBits, Opcode.matchBits]

theorem qbrev (v : Nibble) : Statement (.qbrev v) := by
  unfold Statement; revert v; decide

theorem qfdec (fmt : Format) (b : Byte) : Statement (.qfdec fmt b) := by
  unfold Statement; revert b; cases fmt <;> decide

theorem qwaddr (x y : Byte) : Statement (.qwaddr x y) := by
  constructor <;> apply BitVec.eq_of_getLsbD_eq <;> intro k hk <;> interval_cases k <;>
    simp [encode, Instr.opcode, Opcode.code, cwOp, Opcode.maskBits, Opcode.matchBits]

end Sys2Proof.Laws.MaskMatch
end

