-- ==== Sys2Proof/Laws/State.lean ====
section
/-! SUPPORT. One lemma per field per named update of the state, each true by unfolding, so that no later proof
unfolds a record update; and the flags after each update. -/

namespace Sys2Proof.Machine

/-! `respond` -/

@[simp] theorem respond_phase (c : Resp) (d : Word) (s : State) : (respond c d s).phase = s.phase := rfl
@[simp] theorem respond_i (c : Resp) (d : Word) (s : State) : (respond c d s).i = s.i := rfl
@[simp] theorem respond_fmt (c : Resp) (d : Word) (s : State) : (respond c d s).fmt = s.fmt := rfl
@[simp] theorem respond_entry (c : Resp) (d : Word) (s : State) : (respond c d s).entry = s.entry := rfl
@[simp] theorem respond_sstat (c : Resp) (d : Word) (s : State) : (respond c d s).sstat = s.sstat := rfl
@[simp] theorem respond_len (c : Resp) (d : Word) (s : State) : (respond c d s).len = s.len := rfl
@[simp] theorem respond_cause (c : Resp) (d : Word) (s : State) : (respond c d s).cause = s.cause := rfl
@[simp] theorem respond_err (c : Resp) (d : Word) (s : State) : (respond c d s).err = s.err := rfl
@[simp] theorem respond_errActual (c : Resp) (d : Word) (s : State) : (respond c d s).errActual = s.errActual := rfl
@[simp] theorem respond_errCause (c : Resp) (d : Word) (s : State) : (respond c d s).errCause = s.errCause := rfl
@[simp] theorem respond_w (c : Resp) (d : Word) (s : State) : (respond c d s).w = s.w := rfl
@[simp] theorem respond_buf (c : Resp) (d : Word) (s : State) : (respond c d s).buf = s.buf := rfl
@[simp] theorem respond_operands (c : Resp) (d : Word) (s : State) : (respond c d s).operands = s.operands := rfl
@[simp] theorem respond_response (c : Resp) (d : Word) (s : State) : (respond c d s).response = some ⟨c, d⟩ := rfl
@[simp] theorem respond_host (c : Resp) (d : Word) (s : State) : (respond c d s).host = s.host := rfl
@[simp] theorem respond_fresh (c : Resp) (d : Word) (s : State) : (respond c d s).fresh = s.fresh := rfl

/-! `accept` -/

@[simp] theorem accept_phase (e : Entry) (f : Format) (st : SrcStatus) (s : State) : (accept e f st s).phase = .validating := rfl
@[simp] theorem accept_i (e : Entry) (f : Format) (st : SrcStatus) (s : State) : (accept e f st s).i = s.i := rfl
@[simp] theorem accept_fmt (e : Entry) (f : Format) (st : SrcStatus) (s : State) : (accept e f st s).fmt = f := rfl
@[simp] theorem accept_entry (e : Entry) (f : Format) (st : SrcStatus) (s : State) : (accept e f st s).entry = e := rfl
@[simp] theorem accept_sstat (e : Entry) (f : Format) (st : SrcStatus) (s : State) : (accept e f st s).sstat = st := rfl
@[simp] theorem accept_len (e : Entry) (f : Format) (st : SrcStatus) (s : State) : (accept e f st s).len = s.operands.buf.len := rfl
@[simp] theorem accept_cause (e : Entry) (f : Format) (st : SrcStatus) (s : State) : (accept e f st s).cause = s.operands.causeIn := rfl
@[simp] theorem accept_err (e : Entry) (f : Format) (st : SrcStatus) (s : State) : (accept e f st s).err = .clear := rfl
@[simp] theorem accept_errActual (e : Entry) (f : Format) (st : SrcStatus) (s : State) : (accept e f st s).errActual = 0 := rfl
@[simp] theorem accept_errCause (e : Entry) (f : Format) (st : SrcStatus) (s : State) : (accept e f st s).errCause = 0 := rfl
@[simp] theorem accept_w (e : Entry) (f : Format) (st : SrcStatus) (s : State) : (accept e f st s).w = s.w := rfl
@[simp] theorem accept_buf (e : Entry) (f : Format) (st : SrcStatus) (s : State) : (accept e f st s).buf = s.operands.buf := rfl
@[simp] theorem accept_operands (e : Entry) (f : Format) (st : SrcStatus) (s : State) : (accept e f st s).operands = s.operands := rfl
@[simp] theorem accept_response (e : Entry) (f : Format) (st : SrcStatus) (s : State) : (accept e f st s).response = s.response := rfl
@[simp] theorem accept_host (e : Entry) (f : Format) (st : SrcStatus) (s : State) : (accept e f st s).host = s.host := rfl
@[simp] theorem accept_fresh (e : Entry) (f : Format) (st : SrcStatus) (s : State) : (accept e f st s).fresh = s.fresh := rfl

/-! `startDecoding` -/

@[simp] theorem startDecoding_phase (s : State) : (startDecoding s).phase = .decoding := rfl
@[simp] theorem startDecoding_i (s : State) : (startDecoding s).i = 0 := rfl
@[simp] theorem startDecoding_fmt (s : State) : (startDecoding s).fmt = s.fmt := rfl
@[simp] theorem startDecoding_entry (s : State) : (startDecoding s).entry = s.entry := rfl
@[simp] theorem startDecoding_sstat (s : State) : (startDecoding s).sstat = s.sstat := rfl
@[simp] theorem startDecoding_len (s : State) : (startDecoding s).len = s.len := rfl
@[simp] theorem startDecoding_cause (s : State) : (startDecoding s).cause = s.cause := rfl
@[simp] theorem startDecoding_err (s : State) : (startDecoding s).err = s.err := rfl
@[simp] theorem startDecoding_errActual (s : State) : (startDecoding s).errActual = s.errActual := rfl
@[simp] theorem startDecoding_errCause (s : State) : (startDecoding s).errCause = s.errCause := rfl
@[simp] theorem startDecoding_w (s : State) : (startDecoding s).w = wordsZero := rfl
@[simp] theorem startDecoding_buf (s : State) : (startDecoding s).buf = s.buf := rfl
@[simp] theorem startDecoding_operands (s : State) : (startDecoding s).operands = s.operands := rfl
@[simp] theorem startDecoding_response (s : State) : (startDecoding s).response = s.response := rfl
@[simp] theorem startDecoding_host (s : State) : (startDecoding s).host = s.host := rfl
@[simp] theorem startDecoding_fresh (s : State) : (startDecoding s).fresh = s.fresh := rfl

/-! `stored` -/

@[simp] theorem stored_phase (w : List WordCell) (s : State) : (stored w s).phase = s.phase := rfl
@[simp] theorem stored_i (w : List WordCell) (s : State) : (stored w s).i = s.i + 1 := rfl
@[simp] theorem stored_fmt (w : List WordCell) (s : State) : (stored w s).fmt = s.fmt := rfl
@[simp] theorem stored_entry (w : List WordCell) (s : State) : (stored w s).entry = s.entry := rfl
@[simp] theorem stored_sstat (w : List WordCell) (s : State) : (stored w s).sstat = s.sstat := rfl
@[simp] theorem stored_len (w : List WordCell) (s : State) : (stored w s).len = s.len := rfl
@[simp] theorem stored_cause (w : List WordCell) (s : State) : (stored w s).cause = s.cause := rfl
@[simp] theorem stored_err (w : List WordCell) (s : State) : (stored w s).err = s.err := rfl
@[simp] theorem stored_errActual (w : List WordCell) (s : State) : (stored w s).errActual = s.errActual := rfl
@[simp] theorem stored_errCause (w : List WordCell) (s : State) : (stored w s).errCause = s.errCause := rfl
@[simp] theorem stored_w (w : List WordCell) (s : State) : (stored w s).w = w := rfl
@[simp] theorem stored_buf (w : List WordCell) (s : State) : (stored w s).buf = s.buf := rfl
@[simp] theorem stored_operands (w : List WordCell) (s : State) : (stored w s).operands = s.operands := rfl
@[simp] theorem stored_response (w : List WordCell) (s : State) : (stored w s).response = s.response := rfl
@[simp] theorem stored_host (w : List WordCell) (s : State) : (stored w s).host = s.host := rfl
@[simp] theorem stored_fresh (w : List WordCell) (s : State) : (stored w s).fresh = s.fresh := rfl

/-! `discardLatches` -/

@[simp] theorem discardLatches_phase (s : State) : (discardLatches s).phase = s.phase := rfl
@[simp] theorem discardLatches_i (s : State) : (discardLatches s).i = s.i := rfl
@[simp] theorem discardLatches_fmt (s : State) : (discardLatches s).fmt = s.fmt := rfl
@[simp] theorem discardLatches_entry (s : State) : (discardLatches s).entry = Config.freeEntry s.fresh := rfl
@[simp] theorem discardLatches_sstat (s : State) : (discardLatches s).sstat = Config.freeSrcStatus s.fresh := rfl
@[simp] theorem discardLatches_len (s : State) : (discardLatches s).len = Config.freeLength s.fresh := rfl
@[simp] theorem discardLatches_cause (s : State) : (discardLatches s).cause = Config.freeCause s.fresh := rfl
@[simp] theorem discardLatches_err (s : State) : (discardLatches s).err = s.err := rfl
@[simp] theorem discardLatches_errActual (s : State) : (discardLatches s).errActual = s.errActual := rfl
@[simp] theorem discardLatches_errCause (s : State) : (discardLatches s).errCause = s.errCause := rfl
@[simp] theorem discardLatches_w (s : State) : (discardLatches s).w = s.w := rfl
@[simp] theorem discardLatches_buf (s : State) : (discardLatches s).buf = s.buf := rfl
@[simp] theorem discardLatches_operands (s : State) : (discardLatches s).operands = s.operands := rfl
@[simp] theorem discardLatches_response (s : State) : (discardLatches s).response = s.response := rfl
@[simp] theorem discardLatches_host (s : State) : (discardLatches s).host = s.host := rfl
@[simp] theorem discardLatches_fresh (s : State) : (discardLatches s).fresh = s.fresh + 1 := rfl

/-! `exposeGrid` -/

@[simp] theorem exposeGrid_phase (s : State) : (exposeGrid s).phase = .complete := rfl
@[simp] theorem exposeGrid_i (s : State) : (exposeGrid s).i = s.i := rfl
@[simp] theorem exposeGrid_fmt (s : State) : (exposeGrid s).fmt = s.fmt := rfl
@[simp] theorem exposeGrid_entry (s : State) : (exposeGrid s).entry = s.entry := rfl
@[simp] theorem exposeGrid_sstat (s : State) : (exposeGrid s).sstat = s.sstat := rfl
@[simp] theorem exposeGrid_len (s : State) : (exposeGrid s).len = s.len := rfl
@[simp] theorem exposeGrid_cause (s : State) : (exposeGrid s).cause = s.cause := rfl
@[simp] theorem exposeGrid_err (s : State) : (exposeGrid s).err = s.err := rfl
@[simp] theorem exposeGrid_errActual (s : State) : (exposeGrid s).errActual = s.errActual := rfl
@[simp] theorem exposeGrid_errCause (s : State) : (exposeGrid s).errCause = s.errCause := rfl
@[simp] theorem exposeGrid_w (s : State) : (exposeGrid s).w = s.w := rfl
@[simp] theorem exposeGrid_buf (s : State) : (exposeGrid s).buf = s.buf := rfl
@[simp] theorem exposeGrid_operands (s : State) : (exposeGrid s).operands = s.operands := rfl
@[simp] theorem exposeGrid_response (s : State) : (exposeGrid s).response = s.response := rfl
@[simp] theorem exposeGrid_host (s : State) : (exposeGrid s).host = s.host := rfl
@[simp] theorem exposeGrid_fresh (s : State) : (exposeGrid s).fresh = s.fresh := rfl

/-! `applyReset` -/

@[simp] theorem applyReset_phase (s : State) : (applyReset s).phase = .idle := rfl
@[simp] theorem applyReset_i (s : State) : (applyReset s).i = 0 := rfl
@[simp] theorem applyReset_fmt (s : State) : (applyReset s).fmt = .burdaMan := rfl
@[simp] theorem applyReset_entry (s : State) : (applyReset s).entry = .buffer := rfl
@[simp] theorem applyReset_sstat (s : State) : (applyReset s).sstat = .ok := rfl
@[simp] theorem applyReset_len (s : State) : (applyReset s).len = 0 := rfl
@[simp] theorem applyReset_cause (s : State) : (applyReset s).cause = 0 := rfl
@[simp] theorem applyReset_err (s : State) : (applyReset s).err = .clear := rfl
@[simp] theorem applyReset_errActual (s : State) : (applyReset s).errActual = 0 := rfl
@[simp] theorem applyReset_errCause (s : State) : (applyReset s).errCause = 0 := rfl
@[simp] theorem applyReset_w (s : State) : (applyReset s).w = [] := rfl
@[simp] theorem applyReset_buf (s : State) : (applyReset s).buf = Buffer.empty := rfl
@[simp] theorem applyReset_operands (s : State) : (applyReset s).operands = s.operands := rfl
@[simp] theorem applyReset_response (s : State) : (applyReset s).response = none := rfl
@[simp] theorem applyReset_host (s : State) : (applyReset s).host = s.host := rfl
@[simp] theorem applyReset_fresh (s : State) : (applyReset s).fresh = s.fresh := rfl

/-! `dropMove` -/

@[simp] theorem dropMove_phase (rest : List HostMove) (s : State) : (dropMove rest s).phase = s.phase := rfl
@[simp] theorem dropMove_i (rest : List HostMove) (s : State) : (dropMove rest s).i = s.i := rfl
@[simp] theorem dropMove_fmt (rest : List HostMove) (s : State) : (dropMove rest s).fmt = s.fmt := rfl
@[simp] theorem dropMove_entry (rest : List HostMove) (s : State) : (dropMove rest s).entry = s.entry := rfl
@[simp] theorem dropMove_sstat (rest : List HostMove) (s : State) : (dropMove rest s).sstat = s.sstat := rfl
@[simp] theorem dropMove_len (rest : List HostMove) (s : State) : (dropMove rest s).len = s.len := rfl
@[simp] theorem dropMove_cause (rest : List HostMove) (s : State) : (dropMove rest s).cause = s.cause := rfl
@[simp] theorem dropMove_err (rest : List HostMove) (s : State) : (dropMove rest s).err = s.err := rfl
@[simp] theorem dropMove_errActual (rest : List HostMove) (s : State) : (dropMove rest s).errActual = s.errActual := rfl
@[simp] theorem dropMove_errCause (rest : List HostMove) (s : State) : (dropMove rest s).errCause = s.errCause := rfl
@[simp] theorem dropMove_w (rest : List HostMove) (s : State) : (dropMove rest s).w = s.w := rfl
@[simp] theorem dropMove_buf (rest : List HostMove) (s : State) : (dropMove rest s).buf = s.buf := rfl
@[simp] theorem dropMove_operands (rest : List HostMove) (s : State) : (dropMove rest s).operands = s.operands := rfl
@[simp] theorem dropMove_response (rest : List HostMove) (s : State) : (dropMove rest s).response = s.response := rfl
@[simp] theorem dropMove_host (rest : List HostMove) (s : State) : (dropMove rest s).host = rest := rfl
@[simp] theorem dropMove_fresh (rest : List HostMove) (s : State) : (dropMove rest s).fresh = s.fresh := rfl

/-! `raise` -/

@[simp] theorem raise_phase (f : Failure) (s : State) : (raise f s).phase = .failed := by cases f <;> rfl
@[simp] theorem raise_err (f : Failure) (s : State) : (raise f s).err = failureKind f := by cases f <;> rfl
@[simp] theorem raise_notFound_errActual (s : State) : (raise .notFound s).errActual = s.errActual := rfl
@[simp] theorem raise_notFound_errCause (s : State) : (raise .notFound s).errCause = s.errCause := rfl
@[simp] theorem raise_invalidSize_errActual (n : Length) (s : State) :
    (raise (.invalidSize n) s).errActual = n := rfl
@[simp] theorem raise_invalidSize_errCause (n : Length) (s : State) :
    (raise (.invalidSize n) s).errCause = s.errCause := rfl
@[simp] theorem raise_ioFailure_errActual (c : Cause) (s : State) :
    (raise (.ioFailure c) s).errActual = s.errActual := rfl
@[simp] theorem raise_ioFailure_errCause (c : Cause) (s : State) : (raise (.ioFailure c) s).errCause = c := rfl
@[simp] theorem raise_i (f : Failure) (s : State) : (raise f s).i = s.i := by cases f <;> rfl
@[simp] theorem raise_fmt (f : Failure) (s : State) : (raise f s).fmt = s.fmt := by cases f <;> rfl
@[simp] theorem raise_entry (f : Failure) (s : State) : (raise f s).entry = s.entry := by cases f <;> rfl
@[simp] theorem raise_sstat (f : Failure) (s : State) : (raise f s).sstat = s.sstat := by cases f <;> rfl
@[simp] theorem raise_len (f : Failure) (s : State) : (raise f s).len = s.len := by cases f <;> rfl
@[simp] theorem raise_cause (f : Failure) (s : State) : (raise f s).cause = s.cause := by cases f <;> rfl
@[simp] theorem raise_w (f : Failure) (s : State) : (raise f s).w = s.w := by cases f <;> rfl
@[simp] theorem raise_buf (f : Failure) (s : State) : (raise f s).buf = s.buf := by cases f <;> rfl
@[simp] theorem raise_operands (f : Failure) (s : State) : (raise f s).operands = s.operands := by cases f <;> rfl
@[simp] theorem raise_response (f : Failure) (s : State) : (raise f s).response = s.response := by cases f <;> rfl
@[simp] theorem raise_host (f : Failure) (s : State) : (raise f s).host = s.host := by cases f <;> rfl
@[simp] theorem raise_fresh (f : Failure) (s : State) : (raise f s).fresh = s.fresh := by cases f <;> rfl

/-! The flags (R20) -/

theorem busy_iff (s : State) : s.busy = true ↔ s.phase = .validating ∨ s.phase = .decoding := by
  unfold State.busy; cases s.phase <;> simp

theorem done_iff (s : State) : s.done = true ↔ s.phase = .complete := by
  unfold State.done; cases s.phase <;> simp

theorem fail_iff (s : State) : s.fail = true ↔ s.phase = .failed := by
  unfold State.fail; cases s.phase <;> simp

theorem not_busy_iff (s : State) :
    s.busy = false ↔ s.phase = .idle ∨ s.phase = .complete ∨ s.phase = .failed := by
  unfold State.busy; cases s.phase <;> simp

@[simp] theorem busy_respond (c : Resp) (d : Word) (s : State) : (respond c d s).busy = s.busy := rfl
@[simp] theorem busy_accept (e : Entry) (f : Format) (st : SrcStatus) (s : State) :
    (accept e f st s).busy = true := rfl
@[simp] theorem busy_dropMove (rest : List HostMove) (s : State) : (dropMove rest s).busy = s.busy := rfl
@[simp] theorem done_respond (c : Resp) (d : Word) (s : State) : (respond c d s).done = s.done := rfl
@[simp] theorem done_dropMove (rest : List HostMove) (s : State) : (dropMove rest s).done = s.done := rfl

end Sys2Proof.Machine
end

