-- ==== Sys2Proof/Laws/Step.lean ====
section
/-! SUPPORT. What each shared operation of the step can do, said once: the guard of a command, the sequencer, a
command, and the step of the two agents. -/

namespace Sys2Proof.Machine

theorem whenReady_ready {s : State} (t : State) (h : s.busy = false) : whenReady s t = .next t := by
  simp [whenReady, h]

theorem whenReady_busy {s : State} (t : State) (h : s.busy = true) :
    whenReady s t = .refused .commandWhileBusy := by
  simp [whenReady, h]

theorem whenReady_next {s t u : State} (h : whenReady s t = .next u) : s.busy = false ∧ u = t := by
  unfold whenReady at h
  split at h <;> simp_all

/-- What VSTEP can do (R145): one of the three failures, or the start of decoding. -/
theorem vstep_cases (s : State) :
    (s.sstat = .notFound ∧ vstep s = raise .notFound s) ∨
    (s.sstat = .ioFail ∧ vstep s = raise (.ioFailure s.cause) s) ∨
    (s.sstat = .ok ∧ s.len ≠ errExpected ∧ vstep s = raise (.invalidSize s.len) s) ∨
    (s.sstat = .ok ∧ s.len = errExpected ∧ vstep s = startDecoding s) := by
  unfold vstep
  cases s.sstat <;> simp
  by_cases h : s.len = errExpected <;> simp [h]

/-- What DSTEP can do when it answers a next state (R147). -/
theorem dstep_next {s t : State} (h : dstep s = .next t) :
    ∃ b, bufferRead s.buf s.i.toNat = some b ∧
      t = stored (pack s.w (cmap (s.i.setWidth 16)) (fdec s.fmt b)) s := by
  unfold dstep at h
  split at h
  · next b hb => exact ⟨b, hb, by simpa using h.symm⟩
  · cases h

/-- What the sequencer can do when it answers a next state (R140): wait, VSTEP, DSTEP or CSTEP. -/
theorem sequencer_next {s t : State} (h : sequencer s = .next t) :
    (s.busy = false ∧ t = s) ∨
    (s.phase = .validating ∧ t = vstep s) ∨
    (s.phase = .decoding ∧ s.i.toNat < 65536 ∧ dstep s = .next t) ∨
    (s.phase = .decoding ∧ s.i.toNat = 65536 ∧ t = cstep s) := by
  unfold sequencer at h
  cases hp : s.phase <;> simp only [hp] at h
  · exact .inl ⟨by simp [State.busy, hp], by simpa using h.symm⟩
  · exact .inr (.inl ⟨rfl, by simpa using h.symm⟩)
  · split at h
    · next hi => exact .inr (.inr (.inl ⟨rfl, hi, h⟩))
    · split at h
      · next hi => exact .inr (.inr (.inr ⟨rfl, hi, by simpa using h.symm⟩))
      · cases h
  · exact .inl ⟨by simp [State.busy, hp], by simpa using h.symm⟩
  · exact .inl ⟨by simp [State.busy, hp], by simpa using h.symm⟩

/-- What a command can do when it answers a next state: answer and change nothing else, or accept a load
(R85, R144); NOT_FOUND is accepted through the file entry point only. -/
theorem exec_next {i : Instr} {s t : State} (h : exec i s = .next t) :
    s.busy = false ∧
    ((∃ c d, t = respond c d s) ∨
     (∃ e f st, t = respond .ok 0 (accept e f st s) ∧ (st = .notFound → e = .file))) := by
  cases i with
  | nop => obtain ⟨hb, rfl⟩ := whenReady_next h; exact ⟨hb, .inl ⟨_, _, rfl⟩⟩
  | loadb f st =>
    obtain ⟨hb, rfl⟩ := whenReady_next h
    cases st with
    | ok => exact ⟨hb, .inr ⟨_, _, _, rfl, by simp⟩⟩
    | notFound => exact ⟨hb, .inl ⟨_, _, rfl⟩⟩
    | ioFail => exact ⟨hb, .inr ⟨_, _, _, rfl, by simp⟩⟩
  | loadf f st => obtain ⟨hb, rfl⟩ := whenReady_next h; exact ⟨hb, .inr ⟨_, _, _, rfl, by simp⟩⟩
  | rdpix x y =>
    obtain ⟨hb, rfl⟩ := whenReady_next h
    refine ⟨hb, .inl ?_⟩
    split <;> exact ⟨_, _, rfl⟩
  | rdw k =>
    obtain ⟨hb, rfl⟩ := whenReady_next h
    refine ⟨hb, .inl ?_⟩
    split <;> exact ⟨_, _, rfl⟩
  | qcmap _ => obtain ⟨hb, rfl⟩ := whenReady_next h; exact ⟨hb, .inl ⟨_, _, rfl⟩⟩
  | qbrev _ => obtain ⟨hb, rfl⟩ := whenReady_next h; exact ⟨hb, .inl ⟨_, _, rfl⟩⟩
  | qfdec _ _ => obtain ⟨hb, rfl⟩ := whenReady_next h; exact ⟨hb, .inl ⟨_, _, rfl⟩⟩
  | qwaddr _ _ => obtain ⟨hb, rfl⟩ := whenReady_next h; exact ⟨hb, .inl ⟨_, _, rfl⟩⟩

/-- What taking a command word can do when it answers a next state. -/
theorem takeCommand_next {cw : Word} {s t : State} (h : takeCommand cw s = .next t) :
    (∃ i, decode cw = .ok i ∧ exec i s = .next t) ∨
    (∃ r, decode cw = .error r ∧ t = respond .reject 0 s) := by
  unfold takeCommand at h
  split at h
  · next i hi => exact .inl ⟨i, hi, h⟩
  · next r hr => exact .inr ⟨r, hr, by simpa using h.symm⟩

/-- What a step can do when it answers a next state (R7): an internal step, with the host waiting or passing, a
reset, a new operand port, or a command taken. -/
theorem step_next {s t : State} (h : step s = .next t) :
    (sequencer s = .next t ∧ (s.busy = true ∨ s.host = [])) ∨
    (∃ rest, s.host = .pass :: rest ∧ sequencer (dropMove rest s) = .next t) ∨
    (∃ rest, s.host = .reset :: rest ∧ t = applyReset (dropMove rest s)) ∨
    (∃ o rest, s.host = .present o :: rest ∧ s.busy = false ∧ t = { dropMove rest s with operands := o }) ∨
    (∃ cw rest, s.host = .command cw :: rest ∧ s.busy = false ∧ takeCommand cw (dropMove rest s) = .next t) := by
  unfold step agentsStep at h
  split at h
  · next hh => exact .inl ⟨h, .inr hh⟩
  · next rest hh => exact .inr (.inl ⟨rest, hh, h⟩)
  · next rest hh => exact .inr (.inr (.inl ⟨rest, hh, by simpa using h.symm⟩))
  · next o rest hh =>
    split at h
    · next hb => exact .inl ⟨h, .inl hb⟩
    · next hb => exact .inr (.inr (.inr (.inl ⟨o, rest, hh, by simpa using hb, by simpa using h.symm⟩)))
  · next cw rest hh =>
    split at h
    · next hb => exact .inl ⟨h, .inl hb⟩
    · next hb => exact .inr (.inr (.inr (.inr ⟨cw, rest, hh, by simpa using hb, h⟩)))

end Sys2Proof.Machine
end

