-- ==== Sys2Proof/Tests/Slice0.lean ====
section
/-! SUPPORT. The author's own tests, each expected value from spec/95_test_vectors.md or a worked rule, and for every
statement with hypotheses a witness that meets them. -/

namespace Sys2Proof.Tests

open Sys2Proof Sys2Proof.Machine

/-! ## Helpers -/

/-- A command word at the port in a phase. -/
def atPort (p : Phase) (cw : Word) : State :=
  { State.reset with phase := p, host := [.command cw] }

/-- In phase `p` the block is not busy, and the word `cw`, of opcode `op`, is its host's next move. -/
def taken (p : Phase) (op : Nibble) (cw : Word) : Bool :=
  decide ((atPort p cw).busy = false ∧ (atPort p cw).host = .command cw :: [] ∧ cwOp cw = op)

/-- Validating, with a source status, a length and a cause. -/
def validating (st : SrcStatus) (len : Length) (cause : Cause) : State :=
  { State.reset with phase := .validating, sstat := st, entry := .file, len := len, cause := cause, buf := ⟨len, []⟩ }

/-- Decoding at offset `i` a buffer of 65,536 bytes, zero but for those listed. -/
def decoding (f : Format) (i : Counter) (cells : List Host.Cell) (w : List WordCell) : State :=
  { State.reset with phase := .decoding, fmt := f, i := i, buf := ⟨65536#32, cells⟩, w := w }

/-- A load command at the port, the operand port holding `len` bytes, zero but for those listed. -/
def loading (cw : Word) (len : Length) (cells : List Host.Cell) : State :=
  { State.reset with operands := ⟨⟨len, cells⟩, 13⟩, host := [.command cw] }

/-- Complete, with the words listed and a zero buffer. -/
def complete (w : List WordCell) : State :=
  { State.reset with phase := .complete, buf := ⟨65536#32, []⟩, w := w }

/-- Failed with a length error. -/
def failed : State := { State.reset with phase := .failed, err := .invalidSize, errActual := 65535#32 }

/-- The state a step leaves, or the state after reset where it leaves none. -/
def after : Host.Outcome State Fault Refusal → State
  | .next t => t
  | .fault _ => State.reset
  | .refused _ => State.reset

/-- Does the step answer a next state? -/
def isNext : Host.Outcome State Fault Refusal → Bool
  | .next _ => true
  | .fault _ => false
  | .refused _ => false

theorem exists_of_isNext {o : Host.Outcome State Fault Refusal} (h : isNext o = true) : ∃ t, o = .next t := by
  cases o with
  | next t => exact ⟨t, rfl⟩
  | fault r => cases h
  | refused r => cases h

/-! ## Decoding, by words written out from R71 and R76 -/

/-- WellFormed refuses the one ill-formed term: a LOADB that carries NOT_FOUND (R74). -/
theorem test_wf_refuses_loadb_notFound :
    (Instr.loadb .burdaMan .notFound).wf = false ∧ (Instr.loadb .pixet .notFound).wf = false := by decide

/-- R71 format N: opcode 0000, 28 zero bits. -/
theorem test_decode_nop : decode 0b00000000000000000000000000000000#32 = .ok .nop := by decide

/-- R71 format L: opcode 0001, 25 zero bits, sstat 10, fmt 1. -/
theorem test_decode_loadb : decode 0b00010000000000000000000000000101#32 = .ok (.loadb .pixet .ioFail) := by decide

/-- R71 format L: opcode 0010, 25 zero bits, sstat 01, fmt 0. -/
theorem test_decode_loadf : decode 0b00100000000000000000000000000010#32 = .ok (.loadf .burdaMan .notFound) := by
  decide

/-- R71 format P: opcode 0011, 12 zero bits, y 11111100, x 00000101. -/
theorem test_decode_rdpix : decode 0b00110000000000001111110000000101#32 = .ok (.rdpix 5 252) := by decide

/-- R71 format K: opcode 0100, 14 zero bits, k 00000101111111. -/
theorem test_decode_rdw : decode 0b01000000000000000000000101111111#32 = .ok (.rdw 383) := by decide

/-- R71 format I: opcode 1000, 12 zero bits, i 0000000100000101. -/
theorem test_decode_qcmap : decode 0b10000000000000000000000100000101#32 = .ok (.qcmap 261) := by decide

/-- R71 format V: opcode 1001, 24 zero bits, v 1101. -/
theorem test_decode_qbrev : decode 0b10010000000000000000000000001101#32 = .ok (.qbrev 13) := by decide

/-- R71 format B: opcode 1010, 19 zero bits, fmt 1, b 11011010. -/
theorem test_decode_qfdec : decode 0b10100000000000000000000111011010#32 = .ok (.qfdec .pixet 0xDA) := by decide

/-- R71 format P: opcode 1011, 12 zero bits, y 11101101, x 00110100. -/
theorem test_decode_qwaddr : decode 0b10110000000000001110110100110100#32 = .ok (.qwaddr 52 237) := by decide

/-- R86 and 95 section 2.6: the encoder on loads with each field set. -/
theorem test_encode_loads :
    encode (.loadb .burdaMan .ok) = 0x10000000#32 ∧ encode (.loadb .pixet .ioFail) = 0x10000005#32 ∧
    encode (.loadf .pixet .notFound) = 0x20000003#32 ∧ encode (.loadf .burdaMan .ioFail) = 0x20000004#32 := by
  decide

/-- 95 section 2.8, R77: the reserved opcodes, refused by that name. -/
theorem test_reserved_opcodes :
    [0x50000000#32, 0x60000000#32, 0x70000000#32, 0xC0000000#32, 0xD0000000#32, 0xE0000000#32, 0xF0000000#32,
      0xFFFFFFFF#32].all (fun cw => decide (decode cw = .error .reservedOpcode)) = true := by decide

/-- R86: the reserved bit of each format that R86 shows. -/
theorem test_reserved_bits :
    [0x00000001#32, 0x10000008#32, 0x20000008#32, 0x30010000#32, 0x40004000#32, 0x80010000#32, 0x90000010#32,
      0xA0000200#32, 0xB0010000#32].all (fun cw => decide (decode cw = .error .reservedBit)) = true := by decide

/-- R85: a LOADB word with bit 3 and a reserved status is refused for the bit, the earlier test. -/
theorem test_reserved_bit_before_status :
    decode 0x1000000E#32 = .error .reservedBit ∧ decode 0x10000006#32 = .error .reservedStatus ∧
    decode 0x20000007#32 = .error .reservedStatus ∧ decode 0x10000002#32 = .error .reservedStatus := by decide

/-- The table's numbering: one word of 32 bits, bit 0 the least significant. -/
theorem test_table_word :
    decodeTableWord 32 0x4000017F = some (.rdw 383) ∧ decodeTableWord 32 0x50000000 = none := by decide

/-! ## Commands, one step each -/

/-- 95 P5: NOP. -/
theorem test_nop : (after (step (atPort .failed 0x00000000#32))).response = some ⟨.ok, 0⟩ ∧
    (after (step (atPort .failed 0x00000000#32))).phase = .failed := by decide

/-- 95 section 2.6: LOADB PX, IOFAIL latches its operands; B and CAUSE_IN come from the operand port. -/
theorem test_loadb :
    let t := after (step (loading 0x10000005#32 65535#32 [(7, 0x1A#8)]))
    t.phase = .validating ∧ t.entry = .buffer ∧ t.fmt = .pixet ∧ t.sstat = .ioFail ∧ t.len = 65535#32 ∧
      t.cause = 13#32 ∧ t.buf = ⟨65535#32, [(7, 0x1A#8)]⟩ := by decide

/-- 95 P3: a new load is what leaves Failed, and it clears the error of the load before. -/
theorem test_loadb_leaves_failed :
    let t := after (step { failed with host := [.command 0x10000000#32] })
    t.phase = .validating ∧ t.err = .clear ∧ t.errActual = 0 ∧ t.response = some ⟨.ok, 0⟩ := by decide

/-- 95 P3: LOADF PX, NOTFOUND is accepted. -/
theorem test_loadf :
    let t := after (step (loading 0x20000003#32 0#32 []))
    t.phase = .validating ∧ t.entry = .file ∧ t.fmt = .pixet ∧ t.sstat = .notFound := by decide

/-- 95 P2: RDPIX 5, 252 of word 383 = 0x10213F16 is 0x10, and RDPIX 5, 254 is 0x3F. -/
theorem test_rdpix :
    (after (exec (.rdpix 5 252) (complete [(383, 0x10213F16#32)]))).response = some ⟨.ok, 0x10#32⟩ ∧
    (after (exec (.rdpix 5 254) (complete [(383, 0x10213F16#32)]))).response = some ⟨.ok, 0x3F#32⟩ := by decide

/-- 95 section 2.7: RDPIX in Idle is not ready, and a reserved bit comes before that. -/
theorem test_rdpix_idle :
    (after (step (atPort .idle 0x3000FF00#32))).response = some ⟨.notReady, 0⟩ ∧
    (after (step (atPort .idle 0x30010000#32))).response = some ⟨.reject, 0⟩ := by decide

/-- 95 P2: RDW 383, RDW 382. -/
theorem test_rdw :
    (after (exec (.rdw 383) (complete [(383, 0x10213F16#32)]))).response = some ⟨.ok, 0x10213F16#32⟩ ∧
    (after (exec (.rdw 382) (complete [(383, 0x10213F16#32)]))).response = some ⟨.ok, 0#32⟩ := by decide

/-- 95 section 2.7: RDW 16383 in Failed. -/
theorem test_rdw_failed : (after (step (atPort .failed 0x40003FFF#32))).response = some ⟨.notReady, 0⟩ := by decide

/-- 95 section 2.1: i = 0xABCD, at the port right after reset. -/
theorem test_qcmap :
    (after (step (State.reset.withFetchWord 32 0x8000ABCD))).response = some ⟨.ok, 0x000054CD#32⟩ := by decide

/-- 95 section 2.2: v = 13. -/
theorem test_qbrev :
    (after (step (State.reset.withFetchWord 32 0x9000000D))).response = some ⟨.ok, 0xB#32⟩ := by decide

/-- 95 section 1.8: 0x1A under Pixet. -/
theorem test_qfdec :
    (after (step (State.reset.withFetchWord 32 0xA000011A))).response = some ⟨.ok, 0x16#32⟩ := by decide

/-- 95 section 2.4: (52, 237), also placed in a busy block. -/
theorem test_qwaddr :
    (after (step (State.reset.withFetchWord 32 0xB000ED34))).response = some ⟨.ok, 0x00020D3B#32⟩ ∧
    (after (step ((validating .ok 0 0).withFetchWord 32 0xB000ED34))).response = some ⟨.ok, 0x00020D3B#32⟩ := by
  decide

/-! ## The pure functions and the internal steps -/

/-- 95 section 2.3. -/
theorem test_fdec_pixet :
    [0x02#8, 0x04#8, 0x55#8, 0xAA#8, 0xDA#8, 0xFF#8].map (fdec .pixet) =
      [0x10#8, 0x08#8, 0x0B#8, 0x34#8, 0x16#8, 0x3F#8] := by decide

/-- 95 section 2.1: offsets where a raster row or the file ends. -/
theorem test_cmap :
    cmap 255 = ⟨255, 255⟩ ∧ cmap 256 = ⟨0, 254⟩ ∧ cmap 32768 = ⟨0, 127⟩ ∧ cmap 65279 = ⟨255, 1⟩ := by decide

/-- 95 section 2.5: PACK builds a word lane by lane. -/
theorem test_pack_lanes :
    pack (pack (pack (pack [] ⟨0, 0⟩ 0xAB) ⟨0, 1⟩ 0xCD) ⟨0, 2⟩ 0xEF) ⟨0, 3⟩ 0x01 = [(0, 0xABCDEF01#32)] ∧
    proj [(0, 0xABCDEF01#32)] ⟨0, 2⟩ = 0xEF := by decide

/-- 95 section 2.5, last rows: PACK is OR, not overwrite. -/
theorem test_pack_is_or :
    pack [(0, 0x0F000000#32)] ⟨0, 0⟩ 0xF0 = [(0, 0xFF000000#32)] ∧
    pack [(0, 0xAA000000#32)] ⟨0, 0⟩ 0x0A = [(0, 0xAA000000#32)] := by decide

/-- 95 section 2.6: IoFailure comes before the length; ERR_ACTUAL stays 0. -/
theorem test_vstep_status_first :
    let t := after (step (validating .ioFail 65535 13))
    t.phase = .failed ∧ t.err = .ioFailure ∧ t.errActual = 0 ∧ t.errCause = 13 := by decide

/-- 95 section 1.7: 65,535 and 65,537 bytes. -/
theorem test_vstep_size :
    (after (step (validating .ok 65535 0))).errActual = 65535 ∧
    (after (step (validating .ok 65537 0))).statusPort.err = 2#2 := by decide

/-- 95 P2: the DSTEP at i = 773 completes word 383. -/
theorem test_dstep :
    let t := after (step (decoding .pixet 773 [(773, 0x02#8)] [(383, 0x00213F16#32)]))
    t.w = [(383, 0x10213F16#32)] ∧ t.i = 774 ∧ t.phase = .decoding := by decide

/-- R148: CSTEP at i = 65,536. -/
theorem test_cstep :
    let t := after (step (decoding .burdaMan 65536 [] [(63, 0xFF#32)]))
    t.phase = .complete ∧ t.w = [(63, 0xFF#32)] ∧ t.i = 65536 := by decide

/-- 95 section 2.8: reset in Decoding with i = 1000. -/
theorem test_reset_in_decoding :
    let t := after (step { decoding .pixet 1000 [] [] with host := [.reset] })
    t.phase = .idle ∧ t.err = .clear ∧ t.busy = false := by decide

/-- R80: lines of the programs of 95 part 3. -/
theorem test_listing_lines :
    listingLine (.rdpix 5 252) ⟨Buffer.empty, 0⟩ "" = "RDPIX 5, 252" ∧
    listingLine (.loadb .pixet .ok) ⟨⟨65536#32, []⟩, 0⟩ "B2" = "LOADB PX ; len=65536 ; buf=B2" ∧
    listingLine (.loadf .burdaMan .ioFail) ⟨Buffer.empty, 5⟩ "" = "LOADF BM, IOFAIL ; cause=5" := by decide

/-! ## Witnesses: for each statement with hypotheses, values that meet them all -/

theorem witness_WorkedEncodings :
    (atPort .complete 0x10000002#32).busy = false ∧
    (atPort .complete 0x10000002#32).host = .command 0x10000002#32 :: [] := by decide

theorem witness_DecodeOfEncode :
    (Instr.loadb .pixet .ioFail).wf = true ∧ (Instr.rdw 16383).wf = true := by decide

theorem witness_EncodeOfDecode :
    decode 0xA00001FF#32 = .ok (.qfdec .pixet 0xFF) ∧ decode 0x20000005#32 = .ok (.loadf .pixet .ioFail) := by decide

/-- A word of the first and of the last reserved opcode. -/
theorem witness_RowsByMaskAndMatch :
    cwOp 0x5FFFFFFF#32 ∈ [0x5#4, 0x6#4, 0x7#4, 0xC#4, 0xD#4, 0xE#4, 0xF#4] ∧
    cwOp 0xF0000000#32 ∈ [0x5#4, 0x6#4, 0x7#4, 0xC#4, 0xD#4, 0xE#4, 0xF#4] := by decide

/-- A word for each of the five answers of R85, in that order. -/
theorem witness_CommandDecodedInOrder :
    taken .idle 0xF#4 0xF0000001#32 = true ∧ taken .idle 0x0#4 0x00000001#32 = true ∧
    taken .idle 0x1#4 0x10000006#32 = true ∧ taken .idle 0x3#4 0x30000000#32 = true ∧
    taken .idle 0x0#4 0x00000000#32 = true := by decide

theorem witness_IllegalWordsChangeNothing :
    (atPort .failed 0x10000002#32).busy = false ∧
    (atPort .failed 0x10000002#32).host = .command 0x10000002#32 :: [] ∧
    decode 0x10000002#32 = .error .reservedStatus := by decide

theorem witness_StepRunsTheDecodedCommand :
    (atPort .idle 0x9000000F#32).busy = false ∧
    (atPort .idle 0x9000000F#32).host = .command 0x9000000F#32 :: [] ∧
    decode 0x9000000F#32 = .ok (.qbrev 15) := by decide

/-- A busy block with a command waiting, and the sequencer's step. -/
theorem witness_CommandsWaitWhileBusy :
    (atPort .validating 0#32).busy = true ∧ hostLeaves (atPort .validating 0#32).host ∧
    ∃ t, sequencer (atPort .validating 0#32) = .next t :=
  ⟨by decide, by intro rest; simp [atPort], exists_of_isNext (by decide)⟩

theorem witness_CommandRefusedWhileBusy : (decoding .pixet 3 [] []).busy = true := by decide

/-- A state for each of the three moves. -/
theorem witness_HostMoves :
    ({ validating .ok 0 0 with host := [.pass] } : State).host = .pass :: [] ∧
    ({ failed with host := [.present ⟨⟨1, []⟩, 2⟩] } : State).host = .present ⟨⟨1, []⟩, 2⟩ :: [] ∧
    ({ failed with host := [.present ⟨⟨1, []⟩, 2⟩] } : State).busy = false ∧
    State.reset.busy = false ∧ State.reset.host = [] := by decide

/-- The three phases in which a command is taken, with a word of opcode 0 of each kind. -/
theorem witness_NopAnswersOk :
    [0x00000000#32, 0x08000000#32].all (taken .idle 0x0#4) = true ∧
    [0x00000000#32, 0x08000000#32].all (taken .complete 0x0#4) = true ∧
    [0x00000000#32, 0x08000000#32].all (taken .failed 0x0#4) = true := by decide

/-- Words accepted and rejected, for both legal `sstat`. -/
theorem witness_LoadbAccepts :
    [0x10000001#32, 0x10000004#32, 0x10000002#32, 0x10000008#32].all (taken .idle 0x1#4) = true ∧
    (SrcStatus.ok = .ok ∨ SrcStatus.ok = .ioFail) ∧ (SrcStatus.ioFail = .ok ∨ SrcStatus.ioFail = .ioFail) := by
  decide

theorem witness_LoadfAccepts :
    [0x20000000#32, 0x20000003#32, 0x20000005#32, 0x20000006#32, 0x28000000#32].all (taken .failed 0x2#4) = true := by
  decide

/-- Each entry point, from each phase that is not busy. -/
theorem witness_AcceptStartsALoad :
    State.reset.busy = false ∧ failed.busy = false ∧ (complete [(63, 0xFF#32)]).busy = false ∧
    (loadCommand .buffer .pixet .ioFail).wf = true ∧ (loadCommand .file .burdaMan .notFound).wf = true := by decide

theorem witness_LoadbNeverNotFound : failed.busy = false := by decide

theorem witness_QcmapAnswersTheCoordinate :
    [0x8000FFFF#32, 0x80010000#32].all (taken .complete 0x8#4) = true := by decide

theorem witness_QbrevAnswersTheEntry :
    [0x9000000F#32, 0x90000010#32].all (taken .failed 0x9#4) = true := by decide

theorem witness_QfdecAnswersTheByte :
    [0xA00001FF#32, 0xA00000FF#32, 0xA0000200#32].all (taken .idle 0xA#4) = true := by decide

theorem witness_QwaddrAnswersTheSlot :
    [0xB000FFFF#32, 0xB0010000#32].all (taken .idle 0xB#4) = true := by decide

theorem witness_RdpixReadsThePixel :
    [0x3000FFFF#32, 0x30010000#32].all (taken .complete 0x3#4) = true ∧
    [0x3000FFFF#32, 0x30010000#32].all (taken .idle 0x3#4) = true := by decide

theorem witness_RdwReadsTheWord :
    [0x40003FFF#32, 0x40004000#32].all (taken .complete 0x4#4) = true ∧
    [0x40003FFF#32, 0x40004000#32].all (taken .failed 0x4#4) = true := by decide

/-- Each of the seven commands answers a next state. -/
theorem witness_ReadsAndQueriesFrame :
    ([.nop, .rdpix 0 255, .rdw 63, .qcmap 1, .qbrev 2, .qfdec .pixet 3, .qwaddr 4 5] : List Instr).all (fun i =>
      decide (i.opcode ≠ .loadb ∧ i.opcode ≠ .loadf) && isNext (exec i (complete [(63, 0xFF#32)]))) = true := by
  decide

theorem witness_LoadFrame :
    ([.loadb .pixet .ok, .loadb .pixet .notFound, .loadf .burdaMan .notFound] : List Instr).all (fun i =>
      decide (i.opcode = .loadb ∨ i.opcode = .loadf) && isNext (exec i failed)) = true := by decide

/-- Rows 0 to 3 and 252 to 255 share a word each; the words of column 255 begin and end at these indices. -/
theorem witness_WaddrIsABijection :
    (0#8).toNat % 4 = 0 ∧ (252#8).toNat % 4 = 0 ∧ 64 * (255#8).toNat ≤ (16320#14).toNat ∧
    64 * (255#8).toNat ≤ (16383#14).toNat ∧ (16383#14).toNat < 64 * (255#8).toNat + 64 := by decide

theorem witness_BitReversalTable : 0 < 4 ∧ 3 < 4 := by decide

theorem witness_PixetLaws : (0#8).toNat < 64 ∧ (63#8).toNat < 64 := by decide

theorem witness_PackMergesOneLane :
    laneByte (wordRead [(0, 0x00AB0000#32)] (waddr ⟨0, 0⟩).index) (waddr ⟨0, 0⟩).lane = 0 ∧
    (0#14 ≠ (waddr ⟨0, 0⟩).index ∨ 2#2 ≠ (waddr ⟨0, 0⟩).lane) := by decide

theorem witness_PackThenProject :
    (∀ k, wordRead [] k = 0) ∧ (⟨0, 254⟩ : Coord) ≠ ⟨0, 255⟩ := ⟨fun _ => rfl, by decide⟩

/-- A state for each failure; lengths on both sides of 65,536. -/
theorem witness_VstepFailsInOrder :
    (validating .notFound 65536 0).phase = .validating ∧ (validating .notFound 65536 0).sstat = .notFound ∧
    (validating .ioFail 65535 13).sstat = .ioFail ∧
    (validating .ok 65535 0).sstat = .ok ∧ (validating .ok 65535 0).len ≠ 65536#32 ∧
    (validating .ok 65537 0).len ≠ 65536#32 := by decide

theorem witness_VstepZeroesAndStarts :
    (validating .ok 65536 0).phase = .validating ∧ (validating .ok 65536 0).sstat = .ok ∧
    (validating .ok 65536 0).len = 65536#32 := by decide

/-- The first and the last offset. -/
theorem witness_DstepPacksOneByte :
    (decoding .pixet 0 [(0, 0xFF#8)] []).phase = .decoding ∧ (decoding .pixet 0 [(0, 0xFF#8)] []).i.toNat < 65536 ∧
    bufferRead (decoding .pixet 0 [(0, 0xFF#8)] []).buf 0 = some 0xFF#8 ∧
    (decoding .burdaMan 65535 [] []).i.toNat < 65536 ∧
    bufferRead (decoding .burdaMan 65535 [] []).buf 65535 = some 0#8 := by decide

theorem witness_CstepCompletes :
    (decoding .pixet 65536 [] []).phase = .decoding ∧ (decoding .pixet 65536 [] []).i.toNat = 65536 := by decide

/-- A step along each edge of the table: the phase before and after. -/
theorem witness_PhaseTransitions :
    ([(failed, .failed), (atPort .complete 0x10000000#32, .validating), (validating .notFound 0 0, .failed),
      (validating .ok 65536 0, .decoding), (decoding .pixet 65536 [] [], .complete),
      ({ failed with host := [.reset] }, .idle)] : List (State × Phase)).all (fun p =>
      isNext (step p.1) && decide ((after (step p.1)).phase = p.2)) = true := by decide

/-- In Failed: waiting, a query, a new load and reset all answer a next state. -/
theorem witness_FailedIsTerminal :
    ([[], [.command 0x9000000F#32], [.command 0x10000000#32], [.reset]] : List (List HostMove)).all (fun moves =>
      decide (({ failed with host := moves } : State).phase = .failed) &&
      isNext (step { failed with host := moves })) = true := by decide

theorem witness_FailuresArePrecise :
    isNext (step (validating .ok 7 0)) = true ∧ (validating .ok 7 0).phase ≠ .failed ∧
    (after (step (validating .ok 7 0))).phase = .failed := by decide

/-- The zeroing changes word 3; the DSTEP at 773 changes word 383. -/
theorem witness_OnlyTheSequencerWritesW :
    (let s : State := { validating .ok 65536 0 with w := [(3, 5#32)] }
     isNext (step s) = true ∧ s.host = [] ∧ wordRead (after (step s)).w 3 ≠ wordRead s.w 3) ∧
    (let s := decoding .pixet 773 [(773, 0x02#8)] []
     isNext (step s) = true ∧ s.host = [] ∧ wordRead (after (step s)).w 383 ≠ wordRead s.w 383) := by decide

theorem witness_WordsHiddenOutsideComplete :
    failed.phase ≠ .complete ∧ isNext (exec (.rdw 0) failed) = true := by decide

/-- A load that fails for each reason, at the command port. -/
theorem witness_FailingLoadOutcome :
    (∃ rest, loadAtPort (loading 0x20000003#32 65536#32 []) .file .pixet .notFound rest) ∧
    (∃ rest, loadAtPort (loading 0x10000004#32 65536#32 []) .buffer .burdaMan .ioFail rest) ∧
    (∃ rest, loadAtPort (loading 0x10000000#32 65535#32 []) .buffer .burdaMan .ok rest) ∧
    SrcStatus.notFound ≠ .ok ∧ SrcStatus.ioFail ≠ .ok ∧
    (loading 0x10000000#32 65535#32 []).operands.buf.len ≠ 65536#32 := by
  refine ⟨⟨[], ?_⟩, ⟨[], ?_⟩, ⟨[], ?_⟩, by decide⟩ <;>
    exact ⟨by decide, by intro rest; simp, _, rfl, by decide⟩

/-- A load of 65,536 bytes at the port, and a byte at the first and the last offset and in the word clause's places. -/
theorem witness_CompletedLoadOutcome :
    let s := loading 0x20000001#32 65536#32 [(0, 0xFF#8)]
    (∃ rest, loadAtPort s .file .pixet .ok rest) ∧ s.operands.buf.len = 65536#32 ∧
    bufferRead s.operands.buf (256 * (255 - (255#8).toNat) + (0#8).toNat) = some 0xFF#8 ∧
    bufferRead s.operands.buf (65535#16).toNat = some 0#8 ∧
    bufferRead s.operands.buf (256 * (255 - 4 * ((63#14).toNat % 64)) + (63#14).toNat / 64) = some 0#8 ∧
    bufferRead s.operands.buf (256 * (255 - 4 * ((63#14).toNat % 64) - 1) + (63#14).toNat / 64) = some 0#8 ∧
    bufferRead s.operands.buf (256 * (255 - 4 * ((63#14).toNat % 64) - 2) + (63#14).toNat / 64) = some 0#8 ∧
    bufferRead s.operands.buf (256 * (255 - 4 * ((63#14).toNat % 64) - 3) + (63#14).toNat / 64) = some 0xFF#8 := by
  refine ⟨⟨[], by decide, by intro rest; simp, _, rfl, by decide⟩, ?_⟩
  decide

theorem witness_AllZeroLoad :
    let s := loading 0x10000001#32 65536#32 []
    (∃ rest, loadAtPort s .buffer .pixet .ok rest) ∧ s.operands.buf.len = 65536#32 ∧
    ∀ i, i < 65536 → bufferRead s.operands.buf i = some 0 := by
  refine ⟨⟨[], by decide, by intro rest; simp, _, rfl, by decide⟩, rfl, ?_⟩
  intro i hi
  exact if_pos hi

theorem witness_SingleByteLoad :
    let s := loading 0x10000000#32 65536#32 [(0, 0xFF#8)]
    (∃ rest, loadAtPort s .buffer .burdaMan .ok rest) ∧ s.operands.buf.len = 65536#32 ∧
    ∀ i, i < 65536 → bufferRead s.operands.buf i = some (if i = 0 then 0xFF#8 else 0) := by
  refine ⟨⟨[], by decide, by intro rest; simp, _, rfl, by decide⟩, rfl, ?_⟩
  intro i hi
  refine (if_pos hi).trans ?_
  simp [loading, cellsRead, eq_comm]

/-- Two blocks with different pasts and the same load at the port. -/
theorem witness_NoCarriedState :
    let s1 := loading 0x10000000#32 65536#32 []
    let s2 : State := { s1 with phase := .failed, err := .ioFailure, errCause := 5, w := [(0, 7#32)] }
    s1.busy = false ∧ s2.busy = false ∧ s1.host = .command 0x10000000#32 :: [] ∧
    s2.host = .command 0x10000000#32 :: [] ∧
    decode 0x10000000#32 = .ok (loadCommand .buffer .burdaMan .ok) ∧ s1.operands = s2.operands ∧
    ∃ t1, steps (0 + 1) s1 = .next t1 := by
  refine ⟨by decide, by decide, by decide, by decide, by decide, by decide, ?_⟩
  exact exists_of_isNext (by decide)

theorem reset_inv : State.reset.Inv := by constructor <;> decide

/-- A Complete grid of zeros over a buffer of zeros has the invariants. -/
theorem complete_inv : (complete []).Inv := by
  refine ⟨by decide, by decide, by decide, by decide, by decide, fun _ => ⟨rfl, ?_⟩⟩
  intro x y b hb
  obtain rfl : b = 0 := by
    simp only [complete, bufferRead, cellsRead_nil] at hb
    exact (Option.some.inj (Option.ite_none_right_eq_some.1 hb).2).symm
  show proj [] ⟨x, y⟩ = _
  simp [proj, wordRead, laneByte, complete, State.reset, fdec, fdecBm]

/-- A load about to decode its first byte has the invariants. -/
theorem decoding_inv (f : Format) (cells : List Host.Cell) : (decoding f 0 cells []).Inv := by
  refine ⟨by simp [decoding, State.reset], by simp [decoding, State.reset], by simp [decoding, State.reset],
    by simp [decoding], fun _ => ⟨by simp [decoding], rfl, ?_⟩, by simp [decoding]⟩
  intro j b _
  show proj [] (cmap j) = _
  simp [proj, wordRead, laneByte, decoding]

/-- Idle, Decoding and Complete states with the invariants, each of which steps. -/
theorem witness_StepKeepsTheInvariant :
    State.reset.Inv ∧ isNext (step State.reset) = true ∧
    (decoding .pixet 0 [(0, 0xFF#8)] []).Inv ∧ isNext (step (decoding .pixet 0 [(0, 0xFF#8)] [])) = true ∧
    (complete []).Inv ∧ isNext (step (complete [])) = true :=
  ⟨reset_inv, by decide, decoding_inv _ _, by decide, complete_inv, by decide⟩

theorem witness_StepKeepsTheCanonicalForm :
    (decoding .burdaMan 773 [(773, 0x02#8)] [(383, 1#32)]).canonical = true ∧
    isNext (step (decoding .burdaMan 773 [(773, 0x02#8)] [(383, 1#32)])) = true := by decide

/-- A canonical list, and the same words with a zero entry, which is not canonical. -/
theorem witness_EqualWordsAreEqualData :
    wordsWf [(3, 5#32), (16383, 1#32)] = true ∧ wordsWf [(3, 5#32), (4, 0#32)] = false ∧
    ∀ k, wordRead [(3, 5#32), (16383, 1#32)] k = wordRead [(3, 5#32), (16383, 1#32)] k := ⟨by decide, by decide, fun _ => rfl⟩

theorem witness_InvariantStatesStepSafely : (decoding .pixet 0 [(0, 0xFF#8)] []).Inv := decoding_inv _ _

theorem witness_BusyBlockMakesProgress :
    (decoding .burdaMan 0 [] []).Inv ∧ (decoding .burdaMan 0 [] []).busy = true :=
  ⟨decoding_inv _ _, by decide⟩

/-- The bytes of the bottom-left and the top-right pixel. -/
theorem witness_FlatGridReversesTheRows :
    (complete []).Inv ∧ (complete []).phase = .complete ∧
    bufferRead (complete []).buf (256 * (255 - (0#8).toNat) + (0#8).toNat) = some 0 ∧
    bufferRead (complete []).buf (256 * (255 - (255#8).toNat) + (255#8).toNat) = some 0 :=
  ⟨complete_inv, rfl, by decide, by decide⟩

theorem witness_ResetInAnyState :
    ({ decoding .pixet 1000 [] [] with host := [.reset] } : State).host = .reset :: [] := by decide

theorem witness_BlocksShareNothing :
    ∃ after, stepBlock #v[atPort .idle 0x9000000D#32, failed] 0 = .next after := ⟨_, rfl⟩

end Sys2Proof.Tests
end

section
/-! PROOFS. The status port: PHASE is readable from its code, the flags say which code it is, and ERR_EXPECTED. -/

namespace Sys2Proof.Machine

/-- No two phases share a code (R12). -/
theorem Phase.code_injective : Function.Injective Phase.code := by
  intro p q h
  match p, q with
  | .idle, .idle | .validating, .validating | .decoding, .decoding | .complete, .complete | .failed, .failed => rfl

/-- The port shows the code of a phase exactly when the block is in that phase. -/
theorem statusPort_phase_eq_code_iff (s : State) (p : Phase) :
    s.statusPort.phase = p.code ↔ s.phase = p :=
  Phase.code_injective.eq_iff

theorem statusPort_busy_iff (s : State) :
    s.statusPort.busy = true ↔
      s.statusPort.phase = Phase.validating.code ∨ s.statusPort.phase = Phase.decoding.code := by
  simp only [statusPort_phase_eq_code_iff]
  exact busy_iff s

theorem statusPort_done_iff (s : State) :
    s.statusPort.done = true ↔ s.statusPort.phase = Phase.complete.code := by
  rw [statusPort_phase_eq_code_iff]
  exact done_iff s

theorem statusPort_fail_iff (s : State) :
    s.statusPort.fail = true ↔ s.statusPort.phase = Phase.failed.code := by
  rw [statusPort_phase_eq_code_iff]
  exact fail_iff s

/-- The hardwired length of R17, as a number. -/
theorem errExpected_eq : errExpected = 65536#32 := rfl

/-- Settles O56: the three codes by the cases of PHASE, FMT and ERR, each flag by the phase whose code it names. -/
theorem statusPortShows : Obligations.StatusPortShows := by
  intro s
  have phase_code : s.statusPort.phase = s.phase.code := rfl
  have fmt_code : s.statusPort.fmt = s.fmt.code := rfl
  have err_code : s.statusPort.err = s.err.code := rfl
  refine ⟨?phase, statusPort_busy_iff s, statusPort_done_iff s, statusPort_fail_iff s, ?fmt, ?err,
    errExpected_eq, rfl, rfl⟩
  case phase => rw [phase_code]; cases s.phase <;> rfl
  case fmt => rw [fmt_code]; cases s.fmt <;> rfl
  case err => rw [err_code]; cases s.err <;> rfl

end Sys2Proof.Machine
end

section
/-! PROOFS. The remap from a flat offset to a pixel, and from a pixel to its word and lane: CMAP and WADDR as bit
slices, each with its inverse. -/

namespace Sys2Proof.Machine

/-! CMAP. -/

/-- The low byte of the offset is the column (R100). -/
theorem cmap_x_eq_extract (i : Offset) : (cmap i).x = i.extractLsb' 0 8 := by
  apply BitVec.eq_of_toNat_eq
  rw [cmap_x_toNat, BitVec.extractLsb'_toNat, Nat.shiftRight_zero]

/-- The high byte of the offset, complemented, is the row (R100). -/
theorem cmap_y_eq_not_extract (i : Offset) : (cmap i).y = ~~~(i.extractLsb' 8 8) := by
  apply BitVec.eq_of_toNat_eq
  have hi := i.isLt
  rw [cmap_y_toNat, BitVec.toNat_not, BitVec.extractLsb'_toNat, Nat.shiftRight_eq_div_pow]
  omega

/-- CMAP_INV undoes CMAP (R103). -/
theorem cmapInv_cmap (i : Offset) : cmapInv (cmap i) = i := by
  apply BitVec.eq_of_toNat_eq
  have hi := i.isLt
  rw [cmapInv_toNat, cmap_x_toNat, cmap_y_toNat]
  omega

/-- CMAP undoes CMAP_INV (R103). -/
theorem cmap_cmapInv (c : Coord) : cmap (cmapInv c) = c := by
  have hx := c.x.isLt
  have hy := c.y.isLt
  apply Coord.ext_toNat
  · rw [cmap_x_toNat, cmapInv_toNat]
    omega
  · rw [cmap_y_toNat, cmapInv_toNat]
    omega

/-- R101, by the inverse R103 gives. -/
theorem cmap_bijective : Function.Bijective cmap :=
  Function.bijective_iff_has_inverse.2 ⟨cmapInv, cmapInv_cmap, cmap_cmapInv⟩

/-! WADDR. -/

/-- The column, then the upper six bits of the row, are the word index (R131). -/
theorem waddr_index_eq_append (c : Coord) : (waddr c).index = c.x ++ c.y.extractLsb' 2 6 := by
  apply BitVec.eq_of_toNat_eq
  have hy := c.y.isLt
  have hhigh : c.y.toNat / 4 < 2 ^ 6 := by omega
  rw [waddr_index_toNat, BitVec.toNat_append, BitVec.extractLsb'_toNat, Nat.shiftRight_eq_div_pow,
    Nat.mod_eq_of_lt hhigh, ← Nat.shiftLeft_add_eq_or_of_lt hhigh, Nat.shiftLeft_eq, Nat.mul_comm]

/-- The complement of the lower two bits of the row is the lane (R131). -/
theorem waddr_lane_eq_not_extract (c : Coord) : (waddr c).lane = ~~~(c.y.extractLsb' 0 2) := by
  apply BitVec.eq_of_toNat_eq
  rw [waddr_lane_toNat, BitVec.toNat_not, BitVec.extractLsb'_toNat, Nat.shiftRight_zero]

/-- The read-back of R131: the pixel that lives in a word and lane. -/
def waddrInv (p : Slot) : Coord where
  x := BitVec.ofNat 8 (p.index.toNat / 64)
  y := BitVec.ofNat 8 (4 * (p.index.toNat % 64) + (3 - p.lane.toNat))

theorem waddrInv_x_toNat (p : Slot) : (waddrInv p).x.toNat = p.index.toNat / 64 := by
  have hk := p.index.isLt
  simp only [waddrInv, BitVec.toNat_ofNat]
  omega

theorem waddrInv_y_toNat (p : Slot) :
    (waddrInv p).y.toNat = 4 * (p.index.toNat % 64) + (3 - p.lane.toNat) := by
  simp only [waddrInv, BitVec.toNat_ofNat]
  omega

theorem Slot.ext_toNat {p q : Slot} (hindex : p.index.toNat = q.index.toNat)
    (hlane : p.lane.toNat = q.lane.toNat) : p = q := by
  cases p; cases q
  simp only [Slot.mk.injEq]
  exact ⟨BitVec.eq_of_toNat_eq hindex, BitVec.eq_of_toNat_eq hlane⟩

/-- The read-back undoes WADDR (R131). -/
theorem waddrInv_waddr (c : Coord) : waddrInv (waddr c) = c := by
  have hy := c.y.isLt
  apply Coord.ext_toNat
  · rw [waddrInv_x_toNat, waddr_index_toNat]
    omega
  · rw [waddrInv_y_toNat, waddr_index_toNat, waddr_lane_toNat]
    omega

/-- WADDR undoes the read-back (R131). -/
theorem waddr_waddrInv (p : Slot) : waddr (waddrInv p) = p := by
  have hlane := p.lane.isLt
  apply Slot.ext_toNat
  · rw [waddr_index_toNat, waddrInv_x_toNat, waddrInv_y_toNat]
    omega
  · rw [waddr_lane_toNat, waddrInv_y_toNat]
    omega

/-- R131, by its read-back formulas. -/
theorem waddr_bijective : Function.Bijective waddr :=
  Function.bijective_iff_has_inverse.2 ⟨waddrInv, waddrInv_waddr, waddr_waddrInv⟩

/-! Their composition (R48). -/

/-- The word index of an offset: its low byte, then the complement of its top six bits. -/
theorem waddr_cmap_index (i : Offset) :
    (waddr (cmap i)).index = i.extractLsb' 0 8 ++ ~~~(i.extractLsb' 10 6) := by
  have hrow : (~~~(i.extractLsb' 8 8)).extractLsb' 2 6 = ~~~(i.extractLsb' 10 6) := by
    apply BitVec.eq_of_getLsbD_eq
    intro k hk
    have hin : 2 + k < 8 := by omega
    simp [hk, hin, ← Nat.add_assoc]
  rw [waddr_index_eq_append, cmap_x_eq_extract, cmap_y_eq_not_extract, hrow]

/-- The lane of an offset is its bits 9 and 8: the complement of CMAP and that of WADDR cancel. -/
theorem waddr_cmap_lane (i : Offset) : (waddr (cmap i)).lane = i.extractLsb' 8 2 := by
  apply BitVec.eq_of_toNat_eq
  have hi := i.isLt
  rw [waddr_lane_toNat, cmap_y_toNat, BitVec.extractLsb'_toNat, Nat.shiftRight_eq_div_pow]
  omega

/-- Settles O27: the slices of CMAP and WADDR composed, and a composition of two bijections. -/
theorem remapBySlices : Obligations.RemapBySlices := by
  refine ⟨fun i => ⟨cmap_x_eq_extract i, cmap_y_eq_not_extract i, waddr_cmap_index i, waddr_cmap_lane i, fun v => ?_⟩,
    waddr_bijective.comp cmap_bijective⟩
  rw [waddr_cmap_lane, laneWord]

end Sys2Proof.Machine
end

section
/-! PROOFS. The flat form of the grid (R56). -/

namespace Sys2Proof.Machine

/-- In Complete the grid is the projection of the words (R175). -/
theorem grid_of_complete {s : State} (h : s.phase = .complete) (c : Coord) : grid s c = some (proj s.w c) := by
  simp only [grid, h]

/-- Entry `256 * y + x` of the flat grid is the pixel `(x, y)` (R56). -/
theorem gridFlat_ofNat (s : State) (x y : Byte) :
    gridFlat s (BitVec.ofNat 16 (256 * y.toNat + x.toNat)) = grid s ⟨x, y⟩ := by
  have hx := x.isLt
  have hy := y.isLt
  have flat : (BitVec.ofNat 16 (256 * y.toNat + x.toNat)).toNat = 256 * y.toNat + x.toNat :=
    Nat.mod_eq_of_lt (by omega)
  have column : (256 * y.toNat + x.toNat) % 256 = x.toNat := by omega
  have row : (256 * y.toNat + x.toNat) / 256 = y.toNat := by omega
  rw [gridFlat, flat, column, row, BitVec.ofNat_toNat, BitVec.ofNat_toNat, BitVec.setWidth_eq, BitVec.setWidth_eq]

/-- Settles O54: the flat entry is the pixel, and the invariant says which byte of the buffer the pixel is in
Complete (R25 clause 5). -/
theorem flatGridReversesTheRows : Obligations.FlatGridReversesTheRows := by
  refine ⟨gridFlat_ofNat, fun s x y b hinv hphase hread => ?_⟩
  obtain ⟨_, pixels⟩ := hinv.complete hphase
  rw [gridFlat_ofNat, grid_of_complete hphase, pixels x y b hread]

end Sys2Proof.Machine
end

section
/-! PROOFS. The decoder: which words it refuses and which it takes, in the order of R85. -/

namespace Sys2Proof

/-- The seven opcodes that name no command (R76). -/
abbrev reservedCodes : List Nibble := [0x5#4, 0x6#4, 0x7#4, 0xC#4, 0xD#4, 0xE#4, 0xF#4]

/-- The codes of `sstat` that a command may not carry (R74): 3 in a load, and NOT_FOUND in a LOADB. -/
abbrev Opcode.StatusReserved (op : Opcode) (st : BitVec 2) : Prop :=
  (op = .loadb ∨ op = .loadf) ∧ st = 3#2 ∨ op = .loadb ∧ st = 1#2

/-! The opcode. -/

theorem Opcode.ofCode_code (op : Opcode) : Opcode.ofCode op.code = some op := by
  cases op <;> rfl

/-- A code that is not reserved is the code of a command. -/
theorem Opcode.exists_code_eq {c : Nibble} (h : c ∉ reservedCodes) : ∃ op : Opcode, op.code = c := by
  have named : ∀ c : Nibble, c ∉ reservedCodes → (Opcode.ofCode c).map Opcode.code = some c := by decide
  obtain ⟨op, _, hop⟩ := Option.map_eq_some_iff.1 (named c h)
  exact ⟨op, hop⟩

/-- A row's mask covers the whole opcode field, so a word that matches the row has its opcode (R76). -/
theorem Opcode.code_eq_cwOp_of_match {op : Opcode} {cw : Word} (h : cw &&& op.maskBits = op.matchBits) :
    op.code = cwOp cw := by
  have mask_covers : cwOp op.maskBits = BitVec.allOnes 4 := by cases op <;> rfl
  have match_carries : cwOp op.matchBits = op.code := by cases op <;> rfl
  rw [← match_carries, ← h, cwOp, BitVec.extractLsb'_and, ← cwOp, ← cwOp, mask_covers, BitVec.and_allOnes]

/-! The source status. -/

/-- R74 as R76 writes it: a LOADB carries 0 or 2, a LOADF anything but 3. -/
theorem Opcode.not_statusReserved_iff (op : Opcode) (st : BitVec 2) :
    ¬ op.StatusReserved st ↔ (op = .loadb → st = 0#2 ∨ st = 2#2) ∧ (op = .loadf → st ≠ 3#2) := by
  revert st
  cases op <;> decide

/-- The reserved statuses, load by load. -/
theorem Opcode.statusReserved_iff (op : Opcode) (st : BitVec 2) :
    op.StatusReserved st ↔ (op = .loadb ∧ (st = 1#2 ∨ st = 3#2)) ∨ (op = .loadf ∧ st = 3#2) := by
  revert st
  cases op <;> decide

theorem decodeFields_of_statusReserved {op : Opcode} {cw : Word} (h : op.StatusReserved (cwSstat cw)) :
    decodeFields op cw = .error .reservedStatus := by
  obtain ⟨rfl | rfl, hst⟩ | ⟨rfl, hst⟩ := h
  · simp [decodeFields, decodeLoadb, hst, SrcStatus.ofCode]
  · simp [decodeFields, decodeLoadf, hst, SrcStatus.ofCode]
  · simp [decodeFields, decodeLoadb, hst, SrcStatus.ofCode]

theorem decodeFields_of_not_statusReserved {op : Opcode} {cw : Word} (h : ¬ op.StatusReserved (cwSstat cw)) :
    ∃ i, decodeFields op cw = .ok i ∧ i.opcode = op ∧ i.wf = true := by
  obtain ⟨hloadb, hloadf⟩ := (op.not_statusReserved_iff _).1 h
  cases op with
  | loadb =>
    obtain hst | hst := hloadb rfl
    · exact ⟨.loadb (Format.ofCode (cwLoadFmt cw)) .ok,
        by simp [decodeFields, decodeLoadb, hst, SrcStatus.ofCode], rfl, rfl⟩
    · exact ⟨.loadb (Format.ofCode (cwLoadFmt cw)) .ioFail,
        by simp [decodeFields, decodeLoadb, hst, SrcStatus.ofCode], rfl, rfl⟩
  | loadf =>
    have named : ∀ st : BitVec 2, st ≠ 3#2 → (SrcStatus.ofCode st).isSome := by decide
    obtain ⟨st, hst⟩ := Option.isSome_iff_exists.1 (named _ (hloadf rfl))
    exact ⟨.loadf (Format.ofCode (cwLoadFmt cw)) st,
      by simp [decodeFields, decodeLoadf, hst], rfl, by cases st <;> rfl⟩
  | nop | rdpix | rdw | qcmap | qbrev | qfdec | qwaddr => exact ⟨_, rfl, rfl, rfl⟩

/-! The word: the tests of R85, one equation each. -/

/-- R85 step 1. -/
theorem decode_of_reservedCode {cw : Word} (h : cwOp cw ∈ reservedCodes) :
    decode cw = .error .reservedOpcode := by
  have unnamed : ∀ c ∈ reservedCodes, Opcode.ofCode c = none := by decide
  rw [decode, unnamed _ h]

theorem decode_of_code {op : Opcode} {cw : Word} (h : op.code = cwOp cw) :
    decode cw = if cw &&& op.maskBits = op.matchBits then decodeFields op cw else .error .reservedBit := by
  rw [decode, ← h, op.ofCode_code]

/-- R85 step 2. -/
theorem decode_of_reservedBit {op : Opcode} {cw : Word} (hcode : op.code = cwOp cw)
    (h : cw &&& op.maskBits ≠ op.matchBits) : decode cw = .error .reservedBit := by
  rw [decode_of_code hcode, if_neg h]

theorem decode_of_match {op : Opcode} {cw : Word} (h : cw &&& op.maskBits = op.matchBits) :
    decode cw = decodeFields op cw := by
  rw [decode_of_code (Opcode.code_eq_cwOp_of_match h), if_pos h]

/-- What the decoder can do, in the order of R85. -/
theorem decode_cases (cw : Word) :
    (cwOp cw ∈ reservedCodes ∧ decode cw = .error .reservedOpcode) ∨
    ∃ op : Opcode, op.code = cwOp cw ∧
      ((cw &&& op.maskBits ≠ op.matchBits ∧ decode cw = .error .reservedBit) ∨
       (cw &&& op.maskBits = op.matchBits ∧ op.StatusReserved (cwSstat cw) ∧
          decode cw = .error .reservedStatus) ∨
       (cw &&& op.maskBits = op.matchBits ∧ ¬ op.StatusReserved (cwSstat cw) ∧
          ∃ i, decode cw = .ok i ∧ i.opcode = op ∧ i.wf = true)) := by
  by_cases hres : cwOp cw ∈ reservedCodes
  · exact .inl ⟨hres, decode_of_reservedCode hres⟩
  obtain ⟨op, hcode⟩ := Opcode.exists_code_eq hres
  refine .inr ⟨op, hcode, ?_⟩
  by_cases hmatch : cw &&& op.maskBits = op.matchBits
  · rw [decode_of_match hmatch]
    by_cases hst : op.StatusReserved (cwSstat cw)
    · exact .inr (.inl ⟨hmatch, hst, decodeFields_of_statusReserved hst⟩)
    · exact .inr (.inr ⟨hmatch, hst, decodeFields_of_not_statusReserved hst⟩)
  · exact .inl ⟨hmatch, decode_of_reservedBit hcode hmatch⟩

/-- The instances of a row (R76). -/
theorem decodes_to_opcode_iff (cw : Word) (op : Opcode) :
    (∃ i, decode cw = .ok i ∧ i.opcode = op) ↔
      cw &&& op.maskBits = op.matchBits ∧ ¬ op.StatusReserved (cwSstat cw) := by
  constructor
  · rintro ⟨i, hi, rfl⟩
    obtain ⟨_, herr⟩ | ⟨op, _, ⟨_, herr⟩ | ⟨_, _, herr⟩ | ⟨hmatch, hst, j, hj, rfl, _⟩⟩ := decode_cases cw
    · simp [herr] at hi
    · simp [herr] at hi
    · simp [herr] at hi
    · obtain rfl : j = i := Except.ok.inj (hj.symm.trans hi)
      exact ⟨hmatch, hst⟩
  · rintro ⟨hmatch, hst⟩
    obtain ⟨i, hi, hop, _⟩ := decodeFields_of_not_statusReserved hst
    exact ⟨i, (decode_of_match hmatch).trans hi, hop⟩

/-- The illegal words (R77). -/
theorem decode_refuses_iff (cw : Word) :
    (∃ r, decode cw = .error r) ↔
      cwOp cw ∈ reservedCodes ∨
      (∃ op : Opcode, op.code = cwOp cw ∧ cw &&& op.maskBits ≠ op.matchBits) ∨
      ∃ op : Opcode, op.code = cwOp cw ∧ op.StatusReserved (cwSstat cw) := by
  constructor
  · rintro ⟨r, hr⟩
    obtain ⟨hres, _⟩ | ⟨op, hcode, ⟨hbit, _⟩ | ⟨_, hst, _⟩ | ⟨_, _, i, hi, _⟩⟩ := decode_cases cw
    · exact .inl hres
    · exact .inr (.inl ⟨op, hcode, hbit⟩)
    · exact .inr (.inr ⟨op, hcode, hst⟩)
    · simp [hi] at hr
  · rintro (hres | ⟨op, hcode, hbit⟩ | ⟨op, hcode, hst⟩)
    · exact ⟨_, decode_of_reservedCode hres⟩
    · exact ⟨_, decode_of_reservedBit hcode hbit⟩
    · by_cases hmatch : cw &&& op.maskBits = op.matchBits
      · exact ⟨_, (decode_of_match hmatch).trans (decodeFields_of_statusReserved hst)⟩
      · exact ⟨_, decode_of_reservedBit hcode hmatch⟩

/-- The test whether the decoder refuses a word, for lists of words. -/
def refuses (cw : Word) : Bool := !(decode cw).isOk

theorem refuses_iff (cw : Word) : refuses cw = true ↔ ∃ r, decode cw = .error r := by
  unfold refuses
  cases decode cw with
  | ok i => simp [Except.isOk, Except.toBool]
  | error r => simp [Except.isOk, Except.toBool]

/-- A word whose opcode is a load's, with a status R74 reserves for it. -/
theorem exists_statusReserved_iff (cw : Word) :
    (∃ op : Opcode, op.code = cwOp cw ∧ op.StatusReserved (cwSstat cw)) ↔
      (cwOp cw = 0x1#4 ∧ (cwSstat cw = 1#2 ∨ cwSstat cw = 3#2)) ∨ (cwOp cw = 0x2#4 ∧ cwSstat cw = 3#2) := by
  simp only [Opcode.statusReserved_iff]
  constructor
  · rintro ⟨op, hcode, ⟨rfl, hst⟩ | ⟨rfl, hst⟩⟩
    · exact .inl ⟨hcode.symm, hst⟩
    · exact .inr ⟨hcode.symm, hst⟩
  · rintro (⟨hop, hst⟩ | ⟨hop, hst⟩)
    · exact ⟨.loadb, hop.symm, .inl ⟨rfl, hst⟩⟩
    · exact ⟨.loadf, hop.symm, .inr ⟨rfl, hst⟩⟩

/-- Settles O4: each listed row is a row of R76, whose instances are known, and a reserved opcode is refused by
R85 step 1. -/
theorem rowsByMaskAndMatch : Obligations.RowsByMaskAndMatch := by
  refine ⟨fun row hrow cw => ?rows, fun cw hres i hi => ?reserved⟩
  case rows =>
    obtain ⟨hmatch, hmask⟩ : row.2.1 = row.1.matchBits ∧ row.2.2 = row.1.maskBits := by
      revert row
      decide
    rw [hmatch, hmask, decodes_to_opcode_iff, Opcode.not_statusReserved_iff, cwSstat]
  case reserved =>
    simp [decode_of_reservedCode hres] at hi

end Sys2Proof
end

section
/-! PROOFS. The command port: how a command word taken while not busy is answered (R85, R77, R86). -/

namespace Sys2Proof.Machine

/-! Taking a word. -/

section
variable {s : State} {cw : Word} {rest : List HostMove}

theorem step_command (hbusy : s.busy = false) (hhost : s.host = .command cw :: rest) :
    step s = takeCommand cw (dropMove rest s) := by
  simp [step, agentsStep, hhost, hbusy]

theorem step_of_decode_ok {i : Instr} (hbusy : s.busy = false) (hhost : s.host = .command cw :: rest)
    (hi : decode cw = .ok i) : step s = exec i (dropMove rest s) := by
  rw [step_command hbusy hhost, takeCommand, hi]

/-- An illegal word is answered REJECT and has no other effect (R77). -/
theorem step_of_decode_error {r : Illegal} (hbusy : s.busy = false) (hhost : s.host = .command cw :: rest)
    (hr : decode cw = .error r) : step s = .next (respond .reject 0 (dropMove rest s)) := by
  rw [step_command hbusy hhost, takeCommand, hr]

end

/-! The answer of a legal command (R85 steps 4 and 5). -/

/-- A command that reads the grid, outside Complete. -/
abbrev ReadsTooEarly (op : Opcode) (s : State) : Prop := (op = .rdpix ∨ op = .rdw) ∧ s.phase ≠ .complete

theorem done_of_not_readsTooEarly {op : Opcode} {s : State} (h : ¬ ReadsTooEarly op s)
    (hop : op = .rdpix ∨ op = .rdw) : s.done = true :=
  (done_iff s).2 (not_not.1 fun hphase => h ⟨hop, hphase⟩)

theorem exec_of_readsTooEarly {i : Instr} {s : State} (hbusy : s.busy = false) (h : ReadsTooEarly i.opcode s) :
    exec i s = .next (respond .notReady 0 s) := by
  obtain ⟨hop, hphase⟩ := h
  have hdone : ¬ s.done = true := mt (done_iff s).1 hphase
  cases i with
  | rdpix x y => rw [exec, execRdpix, whenReady_ready _ hbusy, if_neg hdone]
  | rdw k => rw [exec, execRdw, whenReady_ready _ hbusy, if_neg hdone]
  | nop | loadb | loadf | qcmap | qbrev | qfdec | qwaddr => simp [Instr.opcode] at hop

/-- Every other legal command is answered OK. -/
theorem exec_answers_ok {i : Instr} {s : State} (hbusy : s.busy = false) (hwf : i.wf = true)
    (hready : ¬ ReadsTooEarly i.opcode s) :
    ∃ t data, exec i s = .next t ∧ t.response = some ⟨.ok, data⟩ := by
  cases i with
  | loadb f st =>
    cases st with
    | ok | ioFail => exact ⟨_, _, whenReady_ready _ hbusy, rfl⟩
    | notFound => cases hwf
  | rdpix x y =>
    have hdone := done_of_not_readsTooEarly hready (.inl rfl)
    exact ⟨_, _, whenReady_ready _ hbusy, by rw [if_pos hdone]; rfl⟩
  | rdw k =>
    have hdone := done_of_not_readsTooEarly hready (.inr rfl)
    exact ⟨_, _, whenReady_ready _ hbusy, by rw [if_pos hdone]; rfl⟩
  | nop | loadf | qcmap | qbrev | qfdec | qwaddr => exact ⟨_, _, whenReady_ready _ hbusy, rfl⟩

/-- Settles O5, test by test in the order of R85. -/
theorem commandDecodedInOrder : Obligations.CommandDecodedInOrder := by
  intro s cw rest hbusy hhost
  split_ifs with hres
  · exact step_of_decode_error hbusy hhost (decode_of_reservedCode hres)
  obtain ⟨op, hcode⟩ := Opcode.exists_code_eq hres
  refine ⟨op, hcode, ?_⟩
  split_ifs with hbit hst hearly
  · exact step_of_decode_error hbusy hhost (decode_of_reservedBit hcode hbit)
  · exact step_of_decode_error hbusy hhost
      ((decode_of_match (not_not.1 hbit)).trans (decodeFields_of_statusReserved hst))
  all_goals
    obtain ⟨i, hfields, rfl, hwf⟩ := decodeFields_of_not_statusReserved hst
    have hi : decode cw = .ok i := (decode_of_match (not_not.1 hbit)).trans hfields
    have hstep := step_of_decode_ok hbusy hhost hi
  · exact hstep.trans (exec_of_readsTooEarly hbusy hearly)
  · have hready : (dropMove rest s).busy = false := hbusy
    obtain ⟨t, data, hexec, hresponse⟩ := exec_answers_ok hready hwf hearly
    exact ⟨i, t, data, hi, rfl, hexec, hstep.trans hexec, hresponse⟩

/-- Settles O6: the decoder's refusals are the illegal words of R77, and a refusal is answered REJECT. -/
theorem illegalWordsChangeNothing : Obligations.IllegalWordsChangeNothing := by
  refine ⟨fun cw => ?_, fun s cw rest r hbusy hhost hr => step_of_decode_error hbusy hhost hr⟩
  rw [decode_refuses_iff, exists_statusReserved_iff]

/-- Settles O1: the decoder and the encoder run on each listed word, and a refusal is answered REJECT. -/
theorem workedEncodings : Obligations.WorkedEncodings := by
  refine ⟨by decide, fun cw hcw s rest hbusy hhost => ?_⟩
  have hcw : refuses cw = true := List.all_eq_true.1 (by decide) cw hcw
  obtain ⟨r, hr⟩ := (refuses_iff cw).1 hcw
  exact step_of_decode_error hbusy hhost hr

end Sys2Proof.Machine
end

section
/-! PROOFS. The reserved bits of a row (R76): between the operands, which stand at the bottom of the word, and the
opcode at its top. -/

namespace Sys2Proof

/-- How many bits the operands of a command take, from bit 0 up (R71). -/
def Opcode.operandWidth : Opcode → Nat
  | .nop => 0
  | .loadb | .loadf => 3
  | .rdpix | .qcmap | .qwaddr => 16
  | .rdw => 14
  | .qbrev => 4
  | .qfdec => 9

theorem Opcode.operandWidth_le (op : Opcode) : op.operandWidth ≤ 16 := by
  cases op <;> decide

/-- A row's mask is every bit above the operands. -/
theorem Opcode.getLsbD_maskBits (op : Opcode) {k : Nat} (hk : k < 32) :
    op.maskBits.getLsbD k = decide (op.operandWidth ≤ k) := by
  revert k
  cases op <;> decide

/-- A row's match is its opcode, over zeros. -/
theorem Opcode.getLsbD_matchBits (op : Opcode) {k : Nat} (hk : k < 32) :
    op.matchBits.getLsbD k = (decide (28 ≤ k) && op.code.getLsbD (k - 28)) := by
  revert k
  cases op <;> decide

/-- A word of a row's opcode matches the row exactly when its reserved bits are zero (R76). -/
theorem Opcode.match_iff_reserved_eq_zero {op : Opcode} {cw : Word} (hcode : op.code = cwOp cw) :
    cw &&& op.maskBits = op.matchBits ↔ cw.extractLsb' op.operandWidth (28 - op.operandWidth) = 0 := by
  have hwidth := op.operandWidth_le
  constructor
  · intro hmatch
    apply BitVec.eq_of_getLsbD_eq
    intro k hk
    have hword : op.operandWidth + k < 32 := by omega
    have hlow : ¬ 28 ≤ op.operandWidth + k := by omega
    have hbit : (cw &&& op.maskBits).getLsbD (op.operandWidth + k) = op.matchBits.getLsbD (op.operandWidth + k) := by
      rw [hmatch]
    simpa [op.getLsbD_maskBits hword, op.getLsbD_matchBits hword, hk, hlow] using hbit
  · intro hzero
    apply BitVec.eq_of_getLsbD_eq
    intro k hk
    rw [BitVec.getLsbD_and, op.getLsbD_maskBits hk, op.getLsbD_matchBits hk, hcode]
    obtain hoperand | hreserved | hopcode :
        k < op.operandWidth ∨ (op.operandWidth ≤ k ∧ k < 28) ∨ 28 ≤ k := by omega
    · have hlow : ¬ 28 ≤ k := by omega
      simp [Nat.not_le.2 hoperand, hlow]
    · obtain ⟨habove, hbelow⟩ := hreserved
      have hbit : (cw.extractLsb' op.operandWidth (28 - op.operandWidth)).getLsbD (k - op.operandWidth) = false := by
        rw [hzero]
        exact BitVec.getLsbD_zero
      have hin : k - op.operandWidth < 28 - op.operandWidth := by omega
      simpa [habove, Nat.not_le.2 hbelow, hin] using hbit
    · have habove : op.operandWidth ≤ k := by omega
      have hin : k - 28 < 4 := by omega
      simp [cwOp, habove, hopcode, hin]

end Sys2Proof

namespace Sys2Proof.Machine

section
variable {s : State} {cw : Word} {rest : List HostMove} {op : Opcode} {i : Instr}

/-- A word whose opcode leaves every operand legal is executed if its reserved bits are zero and rejected
otherwise (R85). -/
theorem step_of_decodeFields (hbusy : s.busy = false) (hhost : s.host = .command cw :: rest)
    (hcode : op.code = cwOp cw) (hfields : decodeFields op cw = .ok i) :
    step s = if cw.extractLsb' op.operandWidth (28 - op.operandWidth) = 0 then exec i (dropMove rest s)
      else .next (respond .reject 0 (dropMove rest s)) := by
  have hiff := Opcode.match_iff_reserved_eq_zero hcode
  split_ifs with hzero
  · exact step_of_decode_ok hbusy hhost ((decode_of_match (hiff.2 hzero)).trans hfields)
  · exact step_of_decode_error hbusy hhost (decode_of_reservedBit hcode (mt hiff.1 hzero))

/-- The word of a query: a command that is answered OK in every state that is not busy and writes the response alone. -/
theorem step_of_query {data : Word} (hbusy : s.busy = false) (hhost : s.host = .command cw :: rest)
    (hcode : op.code = cwOp cw) (hfields : decodeFields op cw = .ok i)
    (hexec : ∀ t : State, t.busy = false → exec i t = .next (respond .ok data t)) :
    step s = .next { s with
      host := rest
      response := some (if cw.extractLsb' op.operandWidth (28 - op.operandWidth) = 0 then ⟨.ok, data⟩
        else ⟨.reject, 0⟩) } := by
  rw [step_of_decodeFields hbusy hhost hcode hfields, hexec (dropMove rest s) hbusy]
  split_ifs <;> rfl

end

end Sys2Proof.Machine
end

section
/-! PROOFS. The coordinate map: CMAP, its inverse, and the command QCMAP (R100 to R103). -/

namespace Sys2Proof.Machine

/-- QCMAP answers the row above the column, as slices of the offset (R102). -/
theorem exec_qcmap {s : State} (i : Offset) (hbusy : s.busy = false) :
    exec (.qcmap i) s = .next (respond .ok (0#16 ++ ~~~(i.extractLsb' 8 8) ++ i.extractLsb' 0 8) s) := by
  rw [exec, execQcmap, whenReady_ready _ hbusy, rdataCoord_eq_append, cmap_x_eq_extract, cmap_y_eq_not_extract]

/-- A slice of the offset field is the slice of the command word at the same place. -/
theorem extractLsb'_cwI (cw : Word) {n : Nat} (hn : n + 8 ≤ 16) :
    (cwI cw).extractLsb' n 8 = cw.extractLsb' n 8 := by
  apply BitVec.eq_of_getLsbD_eq
  intro k hk
  have hin : n + k < 16 := by omega
  simp [cwI, hk, hin]

/-- Settles O16: the command by the slices of CMAP, and the word by the reserved bits of its row. -/
theorem qcmapAnswersTheCoordinate : Obligations.QcmapAnswersTheCoordinate := by
  refine fun s hbusy => ⟨fun i => exec_qcmap i hbusy, fun cw rest hhost hop => ?_⟩
  rw [← extractLsb'_cwI cw (n := 8) (by decide), ← extractLsb'_cwI cw (n := 0) (by decide)]
  exact step_of_query (op := .qcmap) hbusy hhost hop.symm rfl fun _ hready => exec_qcmap _ hready

/-- Settles O25: CMAP_INV is a two-sided inverse. -/
theorem cmapIsABijection : Obligations.CmapIsABijection :=
  ⟨cmap_bijective, cmapInv_toNat, cmap_cmapInv, cmapInv_cmap⟩

/-- Settles O24: CMAP as numbers and as slices; the corner cases are evaluated. -/
theorem cmapIsTheVerticalFlip : Obligations.CmapIsTheVerticalFlip :=
  ⟨fun i => ⟨cmap_x_toNat i, cmap_y_toNat i, cmap_x_eq_extract i, cmap_y_eq_not_extract i⟩, by decide⟩

end Sys2Proof.Machine
end

section
/-! PROOFS. The bit-reversal table: BREV4 and the command QBREV (R110 to R112). -/

namespace Sys2Proof.Machine

/-- The contract of BREV4 (R110): result bit 3 is bit 0 of the operand, and so on. -/
theorem getLsbD_brev4 (v : Nibble) {k : Nat} (hk : k < 4) : (brev4 v).getLsbD k = v.getLsbD (3 - k) := by
  revert v k
  decide

/-- Reversing the bits twice puts every bit back (R111). -/
theorem brev4_brev4 (v : Nibble) : brev4 (brev4 v) = v := by
  apply BitVec.eq_of_getLsbD_eq
  intro k hk
  have hmirror : 3 - k < 4 := by omega
  have hback : 3 - (3 - k) = k := by omega
  rw [getLsbD_brev4 _ hk, getLsbD_brev4 _ hmirror, hback]

/-- QBREV answers the table's entry (R112). -/
theorem exec_qbrev {s : State} (v : Nibble) (hbusy : s.busy = false) :
    exec (.qbrev v) s = .next (respond .ok (0#28 ++ lut.get v.toFin) s) := by
  rw [exec, execQbrev, whenReady_ready _ hbusy, rdataNibble_eq_append, brev4]

/-- Settles O28: the table as listed, BREV4 bit by bit, and the involution that follows from its bits. -/
theorem bitReversalTable : Obligations.BitReversalTable :=
  ⟨rfl, fun _ => rfl, fun v _ hk => getLsbD_brev4 v hk, brev4_brev4⟩

/-- Settles O17: the command by its table entry, and the word by the reserved bits of its row. -/
theorem qbrevAnswersTheEntry : Obligations.QbrevAnswersTheEntry :=
  fun _ hbusy => ⟨fun v => exec_qbrev v hbusy, fun cw _ hhost hop =>
    step_of_query (op := .qbrev) hbusy hhost hop.symm rfl fun _ hready => exec_qbrev (cwV cw) hready⟩

end Sys2Proof.Machine
end

section
/-! PROOFS. The format decoder: FDEC bit by bit, the laws of its Pixet variant, and the command QFDEC (R120 to R127). -/

namespace Sys2Proof.Machine

/-! The bits of FDEC. -/

@[simp] theorem fdec_burdaMan (b : Byte) : fdec .burdaMan b = b := rfl

@[simp] theorem fdec_pixet (b : Byte) : fdec .pixet b = fdecPx b := rfl

/-- The masked and shifted field of R122 is the slice b[4:1]. -/
theorem pixetField_eq_extract (b : Byte) :
    ((b &&& Config.pixetFieldMask) >>> 1).setWidth 4 = b.extractLsb' 1 4 := by
  have mask_keeps : ∀ k < 4, Config.pixetFieldMask.getLsbD (1 + k) = true := by decide
  apply BitVec.eq_of_getLsbD_eq
  intro k hk
  simp [hk, mask_keeps k hk]

/-- The byte that Pixet builds of its two parts (R122): bits 0 and 5 of `b`, and a field in bits 1 to 4. -/
def withField (b : Byte) (v : Nibble) : Byte := (b &&& 0x21#8) ||| (v.setWidth 8 <<< 1)

/-- R122: the operand with its field reversed. -/
theorem fdecPx_eq_withField (b : Byte) : fdecPx b = withField b (brev4 (b.extractLsb' 1 4)) := by
  rw [fdecPx, pixetField_eq_extract, withField]

theorem getLsbD_withField (b : Byte) (v : Nibble) {k : Nat} (hk : k < 8) :
    (withField b v).getLsbD k =
      if 1 ≤ k ∧ k ≤ 4 then v.getLsbD (k - 1) else decide (k < 6) && b.getLsbD k := by
  have pass_mask : (0x21#8).getLsbD k = decide (k = 0 ∨ k = 5) := by
    revert k
    decide
  rw [withField, BitVec.getLsbD_or, BitVec.getLsbD_and, pass_mask, BitVec.getLsbD_shiftLeft, BitVec.getLsbD_setWidth]
  obtain rfl | ⟨hlow, hhigh⟩ | rfl | htop : k = 0 ∨ (1 ≤ k ∧ k ≤ 4) ∨ k = 5 ∨ 6 ≤ k := by omega
  · simp
  · have hzero : k ≠ 0 := by omega
    have hfive : k ≠ 5 := by omega
    have hin : k - 1 < 8 := by omega
    simp [hk, hlow, hhigh, hzero, hfive, hin]
  · simp
  · have hoff : ¬ (k = 0 ∨ k = 5) := by omega
    have hout : 4 ≤ k - 1 := by omega
    have hnot : ¬ k ≤ 4 := by omega
    simp [BitVec.getLsbD_of_ge _ _ hout, hoff, hnot, Nat.not_lt.2 htop]

/-- The field reads back. -/
@[simp] theorem extractLsb'_withField (b : Byte) (v : Nibble) : (withField b v).extractLsb' 1 4 = v := by
  apply BitVec.eq_of_getLsbD_eq
  intro k hk
  have hbyte : 1 + k < 8 := by omega
  have hfield : 1 ≤ 1 + k ∧ 1 + k ≤ 4 := by omega
  rw [BitVec.getLsbD_extractLsb', decide_eq_true hk, Bool.true_and, getLsbD_withField b v hbyte, if_pos hfield,
    Nat.add_sub_cancel_left]

/-- The second field replaces the first. -/
@[simp] theorem withField_withField (b : Byte) (u v : Nibble) :
    withField (withField b u) v = withField b v := by
  apply BitVec.eq_of_getLsbD_eq
  intro k hk
  rw [getLsbD_withField _ v hk, getLsbD_withField b v hk]
  split_ifs with hfield
  · rfl
  · rw [getLsbD_withField b u hk, if_neg hfield, ← Bool.and_assoc, Bool.and_self]

/-- With its own field in place a byte keeps bits 0 to 5. -/
theorem withField_extractLsb' (b : Byte) : withField b (b.extractLsb' 1 4) = b &&& 0x3F#8 := by
  have mask : ∀ k < 8, (0x3F#8).getLsbD k = decide (k < 6) := by decide
  apply BitVec.eq_of_getLsbD_eq
  intro k hk
  rw [getLsbD_withField b _ hk, BitVec.getLsbD_and, mask k hk, Bool.and_comm]
  split_ifs with hfield
  · obtain ⟨hlow, hhigh⟩ := hfield
    have hin : k - 1 < 4 := by omega
    have hsix : k < 6 := by omega
    simp [hin, hsix, Nat.add_sub_cancel' hlow]
  · rfl

/-- Bits 1 to 4 are mirrored (R122). -/
theorem getLsbD_fdecPx_of_field (b : Byte) {k : Nat} (hlow : 1 ≤ k) (hhigh : k ≤ 4) :
    (fdecPx b).getLsbD k = b.getLsbD (5 - k) := by
  have hbyte : k < 8 := by omega
  have hin : k - 1 < 4 := by omega
  have hmirror : 3 - (k - 1) < 4 := by omega
  have hsource : 1 + (3 - (k - 1)) = 5 - k := by omega
  rw [fdecPx_eq_withField, getLsbD_withField _ _ hbyte, if_pos ⟨hlow, hhigh⟩, getLsbD_brev4 _ hin,
    BitVec.getLsbD_extractLsb', decide_eq_true hmirror, Bool.true_and, hsource]

/-- Bits 0 and 5 pass, bits 6 and 7 are dropped (R122, R123). -/
theorem getLsbD_fdecPx_of_not_field (b : Byte) {k : Nat} (hk : k < 8) (hnot : ¬ (1 ≤ k ∧ k ≤ 4)) :
    (fdecPx b).getLsbD k = (decide (k < 6) && b.getLsbD k) := by
  rw [fdecPx_eq_withField, getLsbD_withField _ _ hk, if_neg hnot]

/-- Settles O29: the formula of R122 with its field as a slice, and the bits inside and outside the field. -/
theorem formatDecoderBits : Obligations.FormatDecoderBits := by
  refine ⟨fdec_burdaMan, fdecPx_eq_withField, fun b => ?_⟩
  have inside {k : Nat} := @getLsbD_fdecPx_of_field b k
  have outside {k : Nat} := @getLsbD_fdecPx_of_not_field b k
  refine ⟨outside ?_ ?_, inside ?_ ?_, inside ?_ ?_, inside ?_ ?_, inside ?_ ?_, outside ?_ ?_, outside ?_ ?_,
    outside ?_ ?_⟩ <;> decide

/-! The laws of the Pixet variant (R127). -/

/-- Law 1: bits 7 and 6 of the operand are not read. -/
theorem fdecPx_and_0x3F (b : Byte) : fdecPx (b &&& 0x3F#8) = fdecPx b := by
  rw [← withField_extractLsb', fdecPx_eq_withField, extractLsb'_withField, withField_withField, fdecPx_eq_withField]

/-- Law 3: reversing the field twice puts it back. -/
theorem fdecPx_fdecPx (b : Byte) : fdecPx (fdecPx b) = b &&& 0x3F#8 := by
  rw [fdecPx_eq_withField b, fdecPx_eq_withField, extractLsb'_withField, withField_withField, brev4_brev4,
    withField_extractLsb']

/-- Law 4: the Pixet variant keeps bits 0 to 5 exactly when reversing keeps the field. -/
theorem fdecPx_eq_and_0x3F_iff (b : Byte) :
    fdecPx b = b &&& 0x3F#8 ↔ brev4 (b.extractLsb' 1 4) = b.extractLsb' 1 4 := by
  rw [fdecPx_eq_withField, ← withField_extractLsb']
  constructor
  · intro h
    simpa using congrArg (fun c : Byte => c.extractLsb' 1 4) h
  · intro h
    rw [h]

/-- The palindromes among the fields (R127). -/
theorem brev4_eq_self_iff (v : Nibble) :
    brev4 v = v ↔ v ∈ [0b0000#4, 0b0110#4, 0b1001#4, 0b1111#4] := by
  revert v
  decide

/-- The result has bits 6 and 7 clear: three applications are one, by laws 1 and 3. -/
theorem and_0x3F_fdecPx (b : Byte) : fdecPx b &&& 0x3F#8 = fdecPx b := by
  rw [← fdecPx_fdecPx, fdecPx_fdecPx b, fdecPx_and_0x3F]

theorem toNat_and_0x3F (b : Byte) : (b &&& 0x3F#8).toNat = b.toNat % 64 :=
  Nat.and_two_pow_sub_one_eq_mod b.toNat 6

theorem and_0x3F_eq_self_iff (v : Byte) : v &&& 0x3F#8 = v ↔ v.toNat < 64 := by
  rw [← BitVec.toNat_inj, toNat_and_0x3F]
  exact Nat.mod_eq_iff_lt (by decide)

/-- The operands that Pixet takes to `v`: bits 0 to 5 are those of FDEC_PX(v). -/
theorem fdecPx_eq_iff {v : Byte} (hv : v.toNat < 64) (b : Byte) :
    fdecPx b = v ↔ b &&& 0x3F#8 = fdecPx v := by
  constructor
  · rintro rfl
    exact (fdecPx_fdecPx b).symm
  · intro h
    rw [← fdecPx_and_0x3F, h, fdecPx_fdecPx, (and_0x3F_eq_self_iff v).2 hv]

/-- Law 2, the image: a value below 64 is taken at its own FDEC_PX. -/
theorem exists_fdecPx_eq_iff (v : Byte) : (∃ b, fdecPx b = v) ↔ v.toNat < 64 := by
  constructor
  · rintro ⟨b, rfl⟩
    exact (and_0x3F_eq_self_iff _).1 (and_0x3F_fdecPx b)
  · intro hv
    exact ⟨fdecPx v, (fdecPx_fdecPx v).trans ((and_0x3F_eq_self_iff v).2 hv)⟩

/-- Law 2, the count: the operands of a value are the 4 bytes of one residue modulo 64. -/
theorem length_filter_fdecPx {v : Byte} (hv : v.toNat < 64) :
    ((List.range 256).filter fun n => decide (fdecPx (BitVec.ofNat 8 n) = v)).length = 4 := by
  have residue : ∀ n ∈ List.range 256,
      decide (fdecPx (BitVec.ofNat 8 n) = v) = true ↔ decide (n ≡ (fdecPx v).toNat [MOD 64]) = true := by
    intro n hn
    have hn : n % 256 = n := Nat.mod_eq_of_lt (List.mem_range.1 hn)
    have hv' : (fdecPx v).toNat % 64 = (fdecPx v).toNat := Nat.mod_eq_of_lt ((exists_fdecPx_eq_iff _).1 ⟨v, rfl⟩)
    rw [decide_eq_true_iff, decide_eq_true_iff, fdecPx_eq_iff hv, ← BitVec.toNat_inj, toNat_and_0x3F,
      BitVec.toNat_ofNat, hn, Nat.ModEq, hv']
  rw [← List.countP_eq_length_filter, List.countP_congr residue, ← Nat.count, Nat.count_modEq_card _ (by decide)]
  rfl

/-- Law 5, for both formats. -/
theorem fdec_zero (f : Format) : fdec f 0 = 0 := by
  cases f <;> rfl

/-- Settles O30: the five laws; the counterexample to idempotence is evaluated. -/
theorem pixetLaws : Obligations.PixetLaws :=
  ⟨fun b => (fdecPx_and_0x3F b).symm, exists_fdecPx_eq_iff, fun _ => length_filter_fdecPx, fdecPx_fdecPx,
    fun b => (fdecPx_eq_and_0x3F_iff b).trans (brev4_eq_self_iff _), by decide, by decide, fdec_zero⟩

/-! The command. -/

/-- QFDEC answers the decoded byte (R124). -/
theorem exec_qfdec {s : State} (f : Format) (b : Byte) (hbusy : s.busy = false) :
    exec (.qfdec f b) s = .next (respond .ok (0#24 ++ fdec f b) s) := by
  rw [exec, execQfdec, whenReady_ready _ hbusy, rdataByte_eq_append]

/-- Settles O18: the command by its decoded byte, and the word by the reserved bits of its row. -/
theorem qfdecAnswersTheByte : Obligations.QfdecAnswersTheByte :=
  fun _ hbusy => ⟨fun f b => exec_qfdec f b hbusy, fun cw _ hhost hop =>
    step_of_query (op := .qfdec) hbusy hhost hop.symm rfl fun _ hready =>
      exec_qfdec (Format.ofCode (cwQueryFmt cw)) (cwB cw) hready⟩

end Sys2Proof.Machine
end

section
/-! PROOFS. The word packer: the laws of WADDR (R131), PACK (R132 to R136), and the command QWADDR (R135). -/

namespace Sys2Proof.Machine

/-! The laws of WADDR. -/

/-- The column of a pixel, read back from its word index (R131). -/
theorem x_toNat_eq_waddr (c : Coord) : c.x.toNat = (waddr c).index.toNat / 64 := by
  rw [← waddrInv_x_toNat, waddrInv_waddr]

/-- The row of a pixel, read back from its word index and lane (R131). -/
theorem y_toNat_eq_waddr (c : Coord) :
    c.y.toNat = 4 * ((waddr c).index.toNat % 64) + (3 - (waddr c).lane.toNat) := by
  rw [← waddrInv_y_toNat, waddrInv_waddr]

/-- Row `n` of a group of four is row `n` above the first: a group does not cross row 255. -/
theorem toNat_add_row {y : Byte} {n : Nat} (hy : y.toNat % 4 = 0) (hn : n < 4) :
    (y + BitVec.ofNat 8 n).toNat = y.toNat + n := by
  have hlt := y.isLt
  rw [BitVec.toNat_add, BitVec.toNat_ofNat]
  omega

/-- The four rows of a group live in one word (R131). -/
theorem waddr_index_add_row (x : Byte) {y : Byte} {n : Nat} (hy : y.toNat % 4 = 0) (hn : n < 4) :
    (waddr ⟨x, y + BitVec.ofNat 8 n⟩).index = (waddr ⟨x, y⟩).index := by
  apply BitVec.eq_of_toNat_eq
  rw [waddr_index_toNat, waddr_index_toNat, toNat_add_row hy hn]
  dsimp only
  omega

/-- The lowest row of a group has the most significant lane (R131). -/
theorem waddr_lane_add_row (x : Byte) {y : Byte} {n : Nat} (hy : y.toNat % 4 = 0) (hn : n < 4) :
    (waddr ⟨x, y + BitVec.ofNat 8 n⟩).lane.toNat = 3 - n := by
  rw [waddr_lane_toNat, toNat_add_row hy hn]
  omega

/-- The words of a column are the 64 from `64 * x` (R131). -/
theorem exists_waddr_index_eq_iff (x : Byte) (k : WordIndex) :
    (∃ y, (waddr ⟨x, y⟩).index = k) ↔ 64 * x.toNat ≤ k.toNat ∧ k.toNat < 64 * x.toNat + 64 := by
  constructor
  · rintro ⟨y, rfl⟩
    have hy := y.isLt
    rw [waddr_index_toNat]
    dsimp only
    omega
  · rintro ⟨hlow, hhigh⟩
    refine ⟨(waddrInv ⟨k, 3#2⟩).y, BitVec.eq_of_toNat_eq ?_⟩
    rw [waddr_index_toNat, waddrInv_y_toNat]
    dsimp only
    omega

/-- Settles O26: WADDR has the read-back as its inverse, and each law is read off its word index and lane as
numbers. -/
theorem waddrIsABijection : Obligations.WaddrIsABijection := by
  refine ⟨waddr_bijective, fun c => ⟨waddr_index_eq_append c, waddr_lane_eq_not_extract c⟩,
    fun c => ⟨?column, y_toNat_eq_waddr c⟩,
    fun x y hy n hn => ⟨waddr_index_add_row x hy hn, waddr_lane_add_row x hy hn⟩, exists_waddr_index_eq_iff⟩
  case column => rw [Nat.shiftRight_eq_div_pow, x_toNat_eq_waddr c]

/-! PACK. -/

section
variable (w : List WordCell) (c : Coord) (v : Byte)

@[simp] theorem wordRead_pack_same :
    wordRead (pack w c v) (waddr c).index = wordRead w (waddr c).index ||| laneWord v (waddr c).lane := by
  rw [pack, wordRead_write_same]

theorem wordRead_pack_other {k : WordIndex} (h : k ≠ (waddr c).index) :
    wordRead (pack w c v) k = wordRead w k := by
  rw [pack, wordRead_write_other _ _ h]

/-- The lane that WADDR names takes the OR of what it held and the byte (R134). -/
theorem laneByte_pack_same :
    laneByte (wordRead (pack w c v) (waddr c).index) (waddr c).lane =
      laneByte (wordRead w (waddr c).index) (waddr c).lane ||| v := by
  rw [wordRead_pack_same, laneByte_or, laneByte_laneWord_same]

/-- Every other lane, of that word and of the others, is as it was (R136). -/
theorem laneByte_pack_other {k : WordIndex} {l : Lane} (h : k ≠ (waddr c).index ∨ l ≠ (waddr c).lane) :
    laneByte (wordRead (pack w c v) k) l = laneByte (wordRead w k) l := by
  by_cases hk : k = (waddr c).index
  · subst hk
    have hl : l ≠ (waddr c).lane := h.resolve_left (not_not.2 rfl)
    rw [wordRead_pack_same, laneByte_or, laneByte_laneWord_other v hl]
    exact BitVec.or_zero
  · rw [wordRead_pack_other w c v hk]

end

/-- A word index is the one WADDR names if it is so as a number (R130). -/
theorem eq_waddr_index_iff (k : WordIndex) (c : Coord) :
    k = (waddr c).index ↔ k.toNat = 64 * c.x.toNat + c.y.toNat / 4 := by
  rw [← BitVec.toNat_inj, waddr_index_toNat]

/-- Settles O31: the word that WADDR names, with its index and shift as numbers, and every other word. -/
theorem packMergesOneWord : Obligations.PackMergesOneWord := by
  intro w c v k
  simp only [← eq_waddr_index_iff]
  split_ifs with hk
  · rw [hk, wordRead_pack_same, laneWord, waddr_lane_toNat]
  · exact wordRead_pack_other w c v hk

/-- Settles O32: the OR in the one lane, which is the byte over 0, and the frame of the other lanes. -/
theorem packMergesOneLane : Obligations.PackMergesOneLane := by
  refine fun w c v => ⟨laneByte_pack_same w c v, fun hzero => ?_, fun k l => laneByte_pack_other w c v⟩
  rw [laneByte_pack_same, hzero]
  exact BitVec.zero_or

/-! The command. -/

/-- QWADDR answers the lane above the word index, as slices of the coordinate (R135). -/
theorem exec_qwaddr {s : State} (x y : Byte) (hbusy : s.busy = false) :
    exec (.qwaddr x y) s = .next
      (respond .ok (0#14 ++ ~~~(y.extractLsb' 0 2) ++ 0#2 ++ (x ++ y.extractLsb' 2 6)) s) := by
  rw [exec, execQwaddr, whenReady_ready _ hbusy, rdataSlot_eq_append, waddr_lane_eq_not_extract,
    waddr_index_eq_append]

/-- A slice of the row field is a slice of the command word, 8 bits up. -/
theorem extractLsb'_cwY (cw : Word) {n m : Nat} (h : n + m ≤ 8) :
    (cwY cw).extractLsb' n m = cw.extractLsb' (8 + n) m := by
  apply BitVec.eq_of_getLsbD_eq
  intro k hk
  have hin : n + k < 8 := by omega
  simp [cwY, hk, hin, Nat.add_assoc]

/-- Settles O19: the command by the slices of WADDR, and the word by the reserved bits of its row. -/
theorem qwaddrAnswersTheSlot : Obligations.QwaddrAnswersTheSlot := by
  refine fun s hbusy => ⟨fun x y => exec_qwaddr x y hbusy, fun cw rest hhost hop => ?_⟩
  rw [← extractLsb'_cwY cw (n := 0) (m := 2) (by decide), ← extractLsb'_cwY cw (n := 2) (m := 6) (by decide)]
  exact step_of_query (op := .qwaddr) hbusy hhost hop.symm rfl fun _ hready => exec_qwaddr (cwX cw) (cwY cw) hready

end Sys2Proof.Machine
end

section
/-! PROOFS. The commands of ConfigCodec: NOP (R141), and the two loads through ACCEPT (R142 to R144). -/

namespace Sys2Proof.Machine

/-! NOP. -/

/-- NOP answers 0 (R141). -/
theorem exec_nop {s : State} (hbusy : s.busy = false) : exec .nop s = .next (respond .ok 0 s) := by
  rw [exec, execNop, whenReady_ready _ hbusy]

/-- Settles O11: the command by its answer, and the word by the reserved bits of its row. -/
theorem nopAnswersOk : Obligations.NopAnswersOk :=
  fun _ hbusy => ⟨exec_nop hbusy, fun _ _ hhost hop =>
    step_of_query (op := .nop) hbusy hhost hop.symm rfl fun _ hready => exec_nop hready⟩

/-! The loads. -/

/-- A legal load, through either entry point, is ACCEPT and the answer OK (R142, R143). -/
theorem exec_loadCommand {s : State} {entry : Entry} {fmt : Format} {sstat : SrcStatus} (hbusy : s.busy = false)
    (hwf : (loadCommand entry fmt sstat).wf = true) :
    exec (loadCommand entry fmt sstat) s = .next (respond .ok 0 (accept entry fmt sstat s)) := by
  cases entry with
  | buffer =>
    cases sstat with
    | ok | ioFail => exact whenReady_ready _ hbusy
    | notFound => cases hwf
  | file => exact whenReady_ready _ hbusy

/-- LOADF may carry every status (R74). -/
theorem loadf_wf (fmt : Format) (sstat : SrcStatus) : (Instr.loadf fmt sstat).wf = true := by
  cases sstat <;> rfl

section
variable {s : State} {cw : Word} {rest : List HostMove} {op : Opcode} {i : Instr}

/-- A word whose operands are illegal for its opcode is rejected, whatever its reserved bits (R85). -/
theorem step_of_decodeFields_error {r : Illegal} (hbusy : s.busy = false) (hhost : s.host = .command cw :: rest)
    (hcode : op.code = cwOp cw) (hfields : decodeFields op cw = .error r) :
    step s = .next (respond .reject 0 (dropMove rest s)) := by
  by_cases hmatch : cw &&& op.maskBits = op.matchBits
  · exact step_of_decode_error hbusy hhost ((decode_of_match hmatch).trans hfields)
  · exact step_of_decode_error hbusy hhost (decode_of_reservedBit hcode hmatch)

/-- A word whose operands are legal but for the source status is executed if its reserved bits are zero and its status
is one that its command may carry, and rejected otherwise (R85). -/
theorem step_of_statusFields {allowed : Prop} [Decidable allowed] (hbusy : s.busy = false)
    (hhost : s.host = .command cw :: rest) (hcode : op.code = cwOp cw)
    (hallowed : ¬ op.StatusReserved (cwSstat cw) ↔ allowed) (hfields : allowed → decodeFields op cw = .ok i) :
    if cw.extractLsb' op.operandWidth (28 - op.operandWidth) = 0 ∧ allowed then step s = exec i (dropMove rest s)
    else step s = .next (respond .reject 0 (dropMove rest s)) := by
  by_cases h : allowed
  · have hstep := step_of_decodeFields hbusy hhost hcode (hfields h)
    split_ifs with hlegal
    · exact hstep.trans (if_pos hlegal.1)
    · exact hstep.trans (if_neg fun hzero => hlegal ⟨hzero, h⟩)
  · rw [if_neg fun hlegal => h hlegal.2]
    exact step_of_decodeFields_error hbusy hhost hcode
      (decodeFields_of_statusReserved (not_not.1 (mt hallowed.1 h)))

end

/-- The statuses a LOADB may carry (R74). -/
theorem loadb_not_statusReserved_iff (st : BitVec 2) :
    ¬ Opcode.loadb.StatusReserved st ↔ st = 0#2 ∨ st = 2#2 := by
  revert st; decide

/-- The statuses a LOADF may carry (R74). -/
theorem loadf_not_statusReserved_iff (st : BitVec 2) : ¬ Opcode.loadf.StatusReserved st ↔ st ≠ 3#2 := by
  revert st; decide

theorem decodeFields_loadb {cw : Word} (h : cwSstat cw = 0#2 ∨ cwSstat cw = 2#2) :
    decodeFields .loadb cw =
      .ok (.loadb (Format.ofCode (cwLoadFmt cw)) (if cwSstat cw = 0#2 then .ok else .ioFail)) := by
  obtain hst | hst := h <;> simp [decodeFields, decodeLoadb, hst, SrcStatus.ofCode]

theorem decodeFields_loadf {cw : Word} (h : cwSstat cw ≠ 3#2) :
    decodeFields .loadf cw = .ok (.loadf (Format.ofCode (cwLoadFmt cw))
      (if cwSstat cw = 0#2 then .ok else if cwSstat cw = 1#2 then .notFound else .ioFail)) := by
  have named : ∀ st : BitVec 2, st ≠ 3#2 →
      SrcStatus.ofCode st = some (if st = 0#2 then .ok else if st = 1#2 then .notFound else .ioFail) := by decide
  rw [decodeFields, decodeLoadf, named _ h]

/-- Settles O12: the command is ACCEPT through the buffer entry point, and the word is legal by its reserved bits and
its status. -/
theorem loadbAccepts : Obligations.LoadbAccepts := by
  refine fun s hbusy => ⟨fun fmt sstat hsstat => ?command, fun cw rest hhost hop => ?word⟩
  case command =>
    obtain rfl | rfl := hsstat
    · exact exec_loadCommand (entry := .buffer) hbusy rfl
    · exact exec_loadCommand (entry := .buffer) hbusy rfl
  case word =>
    exact step_of_statusFields (op := .loadb) hbusy hhost hop.symm (loadb_not_statusReserved_iff _)
      decodeFields_loadb

/-- Settles O13: the command is ACCEPT through the file entry point, the word is legal by its reserved bits and its
status, and the two accepts are the same record but for ENTRY. -/
theorem loadfAccepts : Obligations.LoadfAccepts := by
  refine fun s hbusy => ⟨fun fmt sstat => ?command, fun cw rest hhost hop => ?word, fun fmt => ?entry⟩
  case command => exact exec_loadCommand (entry := .file) hbusy (loadf_wf fmt sstat)
  case word =>
    exact step_of_statusFields (op := .loadf) hbusy hhost hop.symm (loadf_not_statusReserved_iff _)
      decodeFields_loadf
  case entry =>
    exact ⟨_, exec_loadCommand (entry := .buffer) hbusy rfl, exec_loadCommand (entry := .file) hbusy rfl⟩

/-- Settles O14: every clause is a field of the accepted state, whose phase hides the grid. -/
theorem acceptStartsALoad : Obligations.AcceptStartsALoad :=
  fun _ _ _ _ hbusy hwf => ⟨_, exec_loadCommand hbusy hwf, rfl, rfl, rfl, rfl, rfl, rfl, rfl, rfl, rfl, rfl,
    fun _ => rfl, fun _ => rfl⟩

end Sys2Proof.Machine
end

section
/-! PROOFS. The sequencer, one equation per phase (R140): VSTEP's success arm (R145, R146), DSTEP (R147) and CSTEP
(R148), and that it waits in Failed (R149). -/

namespace Sys2Proof.Machine

/-! The internal steps. -/

theorem sequencer_of_not_busy {s : State} (h : s.busy = false) : sequencer s = .next s := by
  obtain hphase | hphase | hphase := (not_busy_iff s).1 h <;> simp only [sequencer, hphase]

/-- In Idle, Complete and Failed the block waits as it is (R194). -/
theorem sequencer_next_of_not_busy {s t : State} (hbusy : s.busy = false) (h : sequencer s = .next t) : t = s := by
  rw [sequencer_of_not_busy hbusy] at h
  exact (Host.Outcome.next.inj h).symm

theorem sequencer_of_validating {s : State} (h : s.phase = .validating) : sequencer s = .next (vstep s) := by
  simp only [sequencer, h]

theorem vstep_of_valid {s : State} (hsstat : s.sstat = .ok) (hlen : s.len = errExpected) : vstep s = startDecoding s := by
  simp only [vstep, hsstat, if_pos hlen]

/-- DSTEP, where the buffer has a byte at `i` (R147). -/
theorem sequencer_of_decoding {s : State} {b : Byte} (hphase : s.phase = .decoding) (hi : s.i.toNat < 65536)
    (hread : bufferRead s.buf s.i.toNat = some b) :
    sequencer s = .next (stored (pack s.w (cmap (s.i.setWidth 16)) (fdec s.fmt b)) s) := by
  simp only [sequencer, hphase, if_pos hi, dstep, hread]

/-- CSTEP, at the end of the buffer (R148). -/
theorem sequencer_of_decoded {s : State} (hphase : s.phase = .decoding) (hi : s.i.toNat = 65536) :
    sequencer s = .next (cstep s) := by
  simp [sequencer, hphase, hi]

/-- Settles O35: the success arm writes what the statement lists. -/
theorem vstepZeroesAndStarts : Obligations.VstepZeroesAndStarts := by
  intro s hphase hsstat hlen
  refine ⟨startDecoding s, ?_, rfl, wordRead_zero⟩
  rw [sequencer_of_validating hphase, vstep_of_valid hsstat hlen]

/-- While decoding, the counter is an offset (R40). -/
theorem offset_toNat {s : State} (hi : s.i.toNat < 65536) : (s.i.setWidth 16 : Offset).toNat = s.i.toNat := by
  rw [BitVec.toNat_setWidth]
  exact Nat.mod_eq_of_lt hi

/-- Settles O36: the step packs at CMAP of the counter, whose word and shift are those of R132. -/
theorem dstepPacksOneByte : Obligations.DstepPacksOneByte := by
  intro s b hphase hi hread
  refine ⟨_, sequencer_of_decoding hphase hi hread, rfl, ?counter, fun k => ?words⟩
  case counter =>
    rw [stored_i, BitVec.toNat_add_of_lt]
    · rfl
    · show s.i.toNat + 1 < 2 ^ 17
      omega
  case words =>
    have hword := packMergesOneWord s.w (cmap (s.i.setWidth 16)) (fdec s.fmt b) k
    rwa [cmap_x_toNat, cmap_y_toNat, offset_toNat hi] at hword

/-! Failed is terminal (R149). -/

/-- A command that is not a load writes the response alone. -/
theorem exec_next_of_not_load {s t : State} {i : Instr} (hload : ¬ (i.opcode = .loadb ∨ i.opcode = .loadf))
    (h : exec i s = .next t) : ∃ c d, t = respond c d s := by
  cases i with
  | loadb f st => exact absurd (.inl rfl) hload
  | loadf f st => exact absurd (.inr rfl) hload
  | rdpix x y =>
    obtain ⟨_, rfl⟩ := whenReady_next h
    split <;> exact ⟨_, _, rfl⟩
  | rdw k =>
    obtain ⟨_, rfl⟩ := whenReady_next h
    split <;> exact ⟨_, _, rfl⟩
  | nop | qcmap | qbrev | qfdec | qwaddr =>
    obtain ⟨_, rfl⟩ := whenReady_next h
    exact ⟨_, _, rfl⟩

/-- A command word taken writes the response alone, or is the word of a load that is accepted. -/
theorem takeCommand_next_cases {s t : State} {cw : Word} (h : takeCommand cw s = .next t) :
    (∃ c d, t = respond c d s) ∨
    ∃ i, decode cw = .ok i ∧ (i.opcode = .loadb ∨ i.opcode = .loadf) ∧
      ∃ e f st, t = respond .ok 0 (accept e f st s) := by
  obtain ⟨i, hi, hexec⟩ | ⟨_, _, ht⟩ := takeCommand_next h
  · by_cases hload : i.opcode = .loadb ∨ i.opcode = .loadf
    · obtain ⟨_, hrespond | ⟨e, f, st, ht, _⟩⟩ := exec_next hexec
      · exact .inl hrespond
      · exact .inr ⟨i, hi, hload, e, f, st, ht⟩
    · exact .inl (exec_next_of_not_load hload hexec)
  · exact .inl ⟨_, _, ht⟩

/-- Settles O39: no read finds Complete, and of all that a step can do only a reset and an accepted load write PHASE
or the error registers. -/
theorem failedIsTerminal : Obligations.FailedIsTerminal := by
  intro s hphase
  have hbusy : s.busy = false := (not_busy_iff s).2 (.inr (.inr hphase))
  have hcomplete : s.phase ≠ .complete := by simp [hphase]
  refine ⟨fun x y => exec_of_readsTooEarly hbusy ⟨.inl rfl, hcomplete⟩,
    fun k => exec_of_readsTooEarly hbusy ⟨.inr rfl, hcomplete⟩, fun t hstep => ?_⟩
  obtain ⟨hseq, _⟩ | ⟨rest, _, hseq⟩ | ⟨rest, hhost, _⟩ | ⟨o, rest, _, _, rfl⟩ | ⟨cw, rest, hhost, _, htake⟩ :=
    step_next hstep
  · obtain rfl := sequencer_next_of_not_busy hbusy hseq
    exact .inl ⟨hphase, rfl, rfl, rfl⟩
  · obtain rfl := sequencer_next_of_not_busy (s := dropMove rest s) hbusy hseq
    exact .inl ⟨hphase, rfl, rfl, rfl⟩
  · exact .inr (.inl ⟨rest, hhost⟩)
  · exact .inl ⟨hphase, rfl, rfl, rfl⟩
  · obtain ⟨c, d, rfl⟩ | ⟨i, hi, hload, e, f, st, rfl⟩ := takeCommand_next_cases htake
    · exact .inl ⟨hphase, rfl, rfl, rfl⟩
    · exact .inr (.inr ⟨cw, rest, i, hhost, hi, hload, rfl, rfl, rfl, rfl⟩)

end Sys2Proof.Machine
end

section
/-! PROOFS. Words and their projections (R170): what PROJ reads after a PACK, and that the pixels determine the words. -/

namespace Sys2Proof.Machine

@[simp] theorem proj_wordsZero (c : Coord) : proj wordsZero c = 0 := laneByte_zero _

section
variable (w : List WordCell) (c : Coord) (v : Byte)

theorem proj_pack_same : proj (pack w c v) c = proj w c ||| v := laneByte_pack_same w c v

/-- Two pixels share no lane (R131), so PACK leaves every other pixel as it was. -/
theorem proj_pack_other {d : Coord} (h : d ≠ c) : proj (pack w c v) d = proj w d := by
  refine laneByte_pack_other w c v (not_and_or.1 fun ⟨hindex, hlane⟩ => h ?_)
  exact waddr_bijective.injective (Slot.ext_toNat (congrArg _ hindex) (congrArg _ hlane))

end

/-- Words that agree in every lane are the same word. -/
theorem eq_of_laneByte_eq {a b : Word} (h : ∀ l, laneByte a l = laneByte b l) : a = b := by
  apply BitVec.eq_of_getLsbD_eq
  intro k hk
  have hlane : (BitVec.ofNat 2 (k / 8)).toNat = k / 8 := Nat.mod_eq_of_lt (by omega)
  have hbit : 8 * (k / 8) + k % 8 = k := Nat.div_add_mod k 8
  have hin : k % 8 < 8 := Nat.mod_lt k (by decide)
  have hbyte := congrArg (BitVec.getLsbD · (k % 8)) (h (BitVec.ofNat 2 (k / 8)))
  simpa only [laneByte_eq_extract, BitVec.getLsbD_extractLsb', hlane, hbit, hin, decide_true, Bool.true_and]
    using hbyte

/-- Every lane of every word is a pixel's (R131), so the pixels determine the words. -/
theorem wordRead_eq_of_proj_eq {w v : List WordCell} (h : ∀ c, proj w c = proj v c) (k : WordIndex) :
    wordRead w k = wordRead v k := by
  refine eq_of_laneByte_eq fun l => ?_
  have hpixel := h (waddrInv ⟨k, l⟩)
  rwa [proj, proj, waddr_waddrInv] at hpixel

end Sys2Proof.Machine
end

section
/-! PROOFS. A completing load from end to end (R151, R153): the command, VSTEP, 65,536 DSTEPs and CSTEP, each from a
state written out; and the loads of R154 and R157. -/

namespace Sys2Proof.Machine

/-! Runs. -/

theorem steps_of_step {s t : State} (h : step s = .next t) (n : Nat) : steps (n + 1) s = steps n t := by
  rw [steps, h]

/-- A run that goes on from where another one ends. -/
theorem steps_add {m : Nat} {s t : State} (h : steps m s = .next t) (n : Nat) : steps (m + n) s = steps n t := by
  induction m generalizing s with
  | zero =>
    obtain rfl : s = t := Host.Outcome.next.inj h
    rw [Nat.zero_add]
  | succ m ih =>
    rw [Nat.add_right_comm]
    cases hstep : step s with
    | next u =>
      rw [steps_of_step hstep] at h ⊢
      exact ih h
    | fault r | refused r => simp [steps, hstep] at h

theorem steps_one (s : State) : steps 1 s = step s := by
  rw [steps]
  cases step s <;> rfl

/-- While busy, with a host that leaves the block alone, the step is the sequencer's (R156). -/
theorem step_of_busy {s : State} (hbusy : s.busy = true) (hhost : hostLeaves s.host) : step s = sequencer s := by
  obtain ⟨hreset, hpass⟩ := forall_and.1 hhost
  rw [step, agentsStep]
  split
  · rfl
  · next rest h => exact absurd h (hpass rest)
  · next rest h => exact absurd h (hreset rest)
  · exact if_pos hbusy
  · exact if_pos hbusy

/-! Decoding. -/

/-- The words once the first `n` bytes of a buffer are decoded, from words of 0. -/
def decodedWords (fmt : Format) (b : Buffer) : Nat → List WordCell
  | 0 => wordsZero
  | n + 1 => pack (decodedWords fmt b n) (cmap (BitVec.ofNat 16 n)) (fdec fmt (cellsRead b.cells n))

/-- The pixels of the first `n` offsets are decoded, and the others are 0 (R25 clause 4). -/
theorem proj_decodedWords (fmt : Format) (b : Buffer) {n : Nat} (hn : n ≤ 65536) (j : Offset) :
    proj (decodedWords fmt b n) (cmap j) = if j.toNat < n then fdec fmt (cellsRead b.cells j.toNat) else 0 := by
  induction n with
  | zero => exact proj_wordsZero _
  | succ n ih =>
    have hoffset : (BitVec.ofNat 16 n).toNat = n := Nat.mod_eq_of_lt hn
    specialize ih (Nat.le_of_succ_le hn)
    rw [decodedWords]
    by_cases hj : j = BitVec.ofNat 16 n
    · have hjn : j.toNat = n := hj ▸ hoffset
      rw [← hj, proj_pack_same, ih, hjn, if_neg (Nat.lt_irrefl n), if_pos (Nat.lt_succ_self n)]
      exact BitVec.zero_or
    · have hjn : j.toNat ≠ n := fun h => hj (BitVec.eq_of_toNat_eq (h.trans hoffset.symm))
      have hlt : j.toNat < n + 1 ↔ j.toNat < n := by omega
      rw [proj_pack_other _ _ _ (cmap_bijective.injective.ne hj), ih]
      simp only [hlt]

/-- Once the whole buffer is decoded, a pixel is the decoded byte at its offset (R151). -/
theorem proj_decodedWords_full (fmt : Format) (b : Buffer) (c : Coord) :
    proj (decodedWords fmt b 65536) c = fdec fmt (cellsRead b.cells (cmapInv c).toNat) := by
  have hpixel := proj_decodedWords fmt b (Nat.le_refl 65536) (cmapInv c)
  rwa [cmap_cmapInv, if_pos (cmapInv c).isLt] at hpixel

/-- The state after `n` DSTEPs, from a state in which VSTEP finds a valid load. -/
def decodingAt (n : Nat) (s : State) : State :=
  { startDecoding s with w := decodedWords s.fmt s.buf n, i := BitVec.ofNat 17 n }

theorem decodingAt_i_toNat {n : Nat} (hn : n ≤ 65536) (s : State) : (decodingAt n s).i.toNat = n :=
  Nat.mod_eq_of_lt (Nat.lt_of_le_of_lt hn (by decide))

section
variable {s : State} (hlen : s.buf.len = 65536#32) (hhost : hostLeaves s.host)
include hlen hhost

theorem step_decodingAt {n : Nat} (hn : n < 65536) : step (decodingAt n s) = .next (decodingAt (n + 1) s) := by
  have hi : (decodingAt n s).i.toNat = n := decodingAt_i_toNat hn.le s
  have hin : n < s.buf.len.toNat := by rw [hlen]; exact hn
  have hread : bufferRead (decodingAt n s).buf (decodingAt n s).i.toNat = some (cellsRead s.buf.cells n) := by
    rw [hi]
    exact bufferRead_of_lt hin
  have hoffset : ((decodingAt n s).i.setWidth 16 : Offset) = BitVec.ofNat 16 n := by
    apply BitVec.eq_of_toNat_eq
    rw [offset_toNat (hi.trans_lt hn), hi]
    exact (Nat.mod_eq_of_lt hn).symm
  have hcounter : (decodingAt n s).i + 1 = BitVec.ofNat 17 (n + 1) := (BitVec.ofNat_add n 1).symm
  rw [step_of_busy (s := decodingAt n s) rfl hhost, sequencer_of_decoding rfl (hi.trans_lt hn) hread, hoffset,
    stored, hcounter]
  rfl

theorem steps_startDecoding {n : Nat} (hn : n ≤ 65536) : steps n (startDecoding s) = .next (decodingAt n s) := by
  induction n with
  | zero => rfl
  | succ n ih =>
    rw [steps_add (ih (Nat.le_of_succ_le hn)), steps_one]
    exact step_decodingAt hlen hhost hn

end

/-! The load. -/

section
variable {s : State} {entry : Entry} {fmt : Format} {rest : List HostMove}

/-- The state that a valid load's command leaves. -/
def acceptedLoad (s : State) (entry : Entry) (fmt : Format) (rest : List HostMove) : State :=
  respond .ok 0 (accept entry fmt .ok (dropMove rest s))

theorem step_loadAtPort (h : loadAtPort s entry fmt .ok rest) : step s = .next (acceptedLoad s entry fmt rest) := by
  obtain ⟨hbusy, _, cw, hcw, hdecode⟩ := h
  rw [step_of_decode_ok hbusy hcw hdecode]
  exact exec_loadCommand (s := dropMove rest s) hbusy (by cases entry <;> rfl)

theorem step_acceptedLoad (hhost : hostLeaves rest) (hlen : s.operands.buf.len = 65536#32) :
    step (acceptedLoad s entry fmt rest) = .next (startDecoding (acceptedLoad s entry fmt rest)) := by
  rw [step_of_busy rfl hhost, sequencer_of_validating rfl, vstep_of_valid rfl hlen]

/-- The command, VSTEP and the first `n` DSTEPs (R153). -/
theorem steps_load (h : loadAtPort s entry fmt .ok rest) (hlen : s.operands.buf.len = 65536#32) {n : Nat}
    (hn : n ≤ 65536) : steps (n + 2) s = .next (decodingAt n (acceptedLoad s entry fmt rest)) := by
  have ⟨_, hhost, _⟩ := h
  rw [steps_of_step (step_loadAtPort h), steps_of_step (step_acceptedLoad hhost hlen)]
  exact steps_startDecoding (s := acceptedLoad s entry fmt rest) hlen hhost hn

/-- The whole load (R153). -/
theorem steps_load_complete (h : loadAtPort s entry fmt .ok rest) (hlen : s.operands.buf.len = 65536#32) :
    steps 65539 s = .next (cstep (decodingAt 65536 (acceptedLoad s entry fmt rest))) := by
  have ⟨_, hhost, _⟩ := h
  rw [steps_add (m := 65536 + 2) (n := 1) (steps_load h hlen (Nat.le_refl 65536)), steps_one,
    step_of_busy rfl hhost, sequencer_of_decoded rfl (decodingAt_i_toNat (Nat.le_refl 65536) _)]

/-- The outcome of a load whose bytes decode to the pixels of some words: those pixels, and those words (R151). -/
theorem load_yields {pixel : Coord → Byte} {w : List WordCell} (h : loadAtPort s entry fmt .ok rest)
    (hlen : s.operands.buf.len = 65536#32)
    (hbytes : ∀ c, fdec fmt (cellsRead s.operands.buf.cells (cmapInv c).toNat) = pixel c)
    (hw : ∀ c, proj w c = pixel c) :
    ∃ t, steps 65539 s = .next t ∧ t.phase = .complete ∧ (∀ c, grid t c = some (pixel c)) ∧
      ∀ k, wordRead t.w k = wordRead w k := by
  have hproj : ∀ c, proj (decodedWords fmt s.operands.buf 65536) c = pixel c :=
    fun c => (proj_decodedWords_full fmt _ c).trans (hbytes c)
  exact ⟨_, steps_load_complete h hlen, rfl, fun c => congrArg some (hproj c),
    wordRead_eq_of_proj_eq fun c => (hproj c).trans (hw c).symm⟩

end

/-- A byte the buffer has, as the cell it is kept in. -/
theorem cellsRead_of_bufferRead {b : Buffer} {i : Nat} {v : Byte} (h : bufferRead b i = some v) :
    cellsRead b.cells i = v :=
  Option.some.inj (Option.ite_none_right_eq_some.1 h).2

/-- Settles O45: bytes of 0 decode to 0 under both formats, the pixels of words of 0. -/
theorem allZeroLoad : Obligations.AllZeroLoad := by
  intro s entry fmt rest hload hlen hbytes
  refine load_yields (w := wordsZero) hload hlen (fun c => ?_) proj_wordsZero
  rw [cellsRead_of_bufferRead (hbytes _ (cmapInv c).isLt), fdec_zero]

/-- The words of R157: the byte 0xFF packed at pixel (0, 255). -/
def singleByteWords : List WordCell := pack wordsZero ⟨0, 255⟩ 0xFF#8

theorem proj_singleByteWords (c : Coord) :
    proj singleByteWords c = if c = ⟨0, 255⟩ then 0xFF#8 else 0 := by
  split_ifs with hc
  · rw [hc]
    rfl
  · exact (proj_pack_other _ _ _ hc).trans (proj_wordsZero c)

theorem wordRead_singleByteWords (k : WordIndex) :
    wordRead singleByteWords k = if k = 63#14 then 0x000000FF#32 else 0 := by
  split_ifs with hk
  · rw [hk]
    rfl
  · exact (wordRead_pack_other _ _ _ hk).trans (wordRead_zero k)

/-- The pixel of offset 0 is (0, 255) (R103). -/
theorem cmapInv_toNat_eq_zero_iff (c : Coord) : (cmapInv c).toNat = 0 ↔ c = ⟨0, 255⟩ := by
  constructor
  · intro h
    rw [← cmap_cmapInv c, BitVec.eq_of_toNat_eq (y := 0#16) h]
    rfl
  · rintro rfl
    rfl

/-- Settles O46: under BurdaMan the bytes are the pixels, those of one PACK into words of 0. -/
theorem singleByteLoad : Obligations.SingleByteLoad := by
  intro s entry rest hload hlen hbytes
  simp only [← wordRead_singleByteWords]
  refine load_yields hload hlen (fun c => ?_) proj_singleByteWords
  rw [fdec_burdaMan, cellsRead_of_bufferRead (hbytes _ (cmapInv c).isLt)]
  simp only [cmapInv_toNat_eq_zero_iff]

end Sys2Proof.Machine
end

section
/-! PROOFS. The grid projection: the commands RDPIX and RDW (R171, R172), the round trip of one pixel (R173), and the
only writers of W (R174). -/

namespace Sys2Proof.Machine

/-! What a read answers in Complete. -/

/-- A pixel on RDATA is its word, shifted down by its lane and masked (R43, R84). -/
theorem rdataByte_laneByte (w : Word) (l : Lane) :
    rdataByte (laneByte w l) = (w >>> (8 * l.toNat)) &&& 0xFF#32 := by
  have hmask : ((w >>> (8 * l.toNat)) &&& 0xFF#32).toNat < 2 ^ 8 :=
    Nat.lt_of_le_of_lt (BitVec.toNat_and .. ▸ Nat.and_le_right) (by decide)
  apply BitVec.eq_of_toNat_eq
  rw [rdataByte, laneByte, BitVec.toNat_setWidth, BitVec.toNat_setWidth, Nat.mod_eq_of_lt hmask]
  exact Nat.mod_eq_of_lt (hmask.trans (by decide))

/-- A projected pixel on RDATA, with its shift as a number (R170). -/
theorem rdataByte_proj (w : List WordCell) (c : Coord) :
    rdataByte (proj w c) = (wordRead w (waddr c).index >>> (8 * (3 - c.y.toNat % 4))) &&& 0xFF#32 := by
  rw [proj, rdataByte_laneByte, waddr_lane_toNat]

section
variable {s : State}

theorem exec_rdpix_of_complete (x y : Byte) (h : s.phase = .complete) :
    exec (.rdpix x y) s = .next (respond .ok
      ((wordRead s.w (waddr ⟨x, y⟩).index >>> (8 * (3 - y.toNat % 4))) &&& 0xFF#32) s) := by
  rw [exec, execRdpix, whenReady_ready _ ((not_busy_iff s).2 (.inr (.inl h))), if_pos ((done_iff s).2 h),
    rdataByte_proj]

theorem exec_rdw_of_complete (k : WordIndex) (h : s.phase = .complete) :
    exec (.rdw k) s = .next (respond .ok (wordRead s.w k) s) := by
  rw [exec, execRdw, whenReady_ready _ ((not_busy_iff s).2 (.inr (.inl h))), if_pos ((done_iff s).2 h)]

/-- A read answers its data in Complete, and NOTREADY in every other phase that takes it (R171, R172). -/
theorem exec_read {i : Instr} {data : Word} (hbusy : s.busy = false) (hop : i.opcode = .rdpix ∨ i.opcode = .rdw)
    (hcomplete : s.phase = .complete → exec i s = .next (respond .ok data s)) :
    exec i s = .next { s with
      response := some (if s.phase = .complete then ⟨.ok, data⟩ else ⟨.notReady, 0⟩) } := by
  split_ifs with hphase
  · exact hcomplete hphase
  · exact exec_of_readsTooEarly hbusy ⟨hop, hphase⟩

/-- `step_of_decodeFields`, one equation for each of the two cases. -/
theorem step_of_decodeFields_cases {cw : Word} {rest : List HostMove} {op : Opcode} {i : Instr}
    (hbusy : s.busy = false) (hhost : s.host = .command cw :: rest) (hcode : op.code = cwOp cw)
    (hfields : decodeFields op cw = .ok i) :
    if cw.extractLsb' op.operandWidth (28 - op.operandWidth) = 0 then step s = exec i (dropMove rest s)
    else step s = .next (respond .reject 0 (dropMove rest s)) := by
  rw [step_of_decodeFields hbusy hhost hcode hfields]
  split_ifs <;> rfl

end

/-- Settles O20: the command by the lane and the word that WADDR names, and the word at the port by the reserved bits
of its row. -/
theorem rdpixReadsThePixel : Obligations.RdpixReadsThePixel := by
  refine fun s hbusy => ⟨fun x y => ?command, fun cw rest hhost hop => ?word⟩
  case command =>
    rw [← waddr_index_eq_append ⟨x, y⟩]
    exact exec_read hbusy (.inl rfl) (exec_rdpix_of_complete x y)
  case word => exact step_of_decodeFields_cases (op := .rdpix) hbusy hhost hop.symm rfl

/-- Settles O21: the command by its word, the word at the port by the reserved bits of its row, and the agreement with
RDPIX by the index that WADDR gives. -/
theorem rdwReadsTheWord : Obligations.RdwReadsTheWord := by
  refine fun s hbusy => ⟨fun k => ?command, fun cw rest hhost hop => ?word, fun x y hphase => ?agree⟩
  case command => exact exec_read hbusy (.inr rfl) (exec_rdw_of_complete k)
  case word => exact step_of_decodeFields_cases (op := .rdw) hbusy hhost hop.symm rfl
  case agree =>
    have hindex : (waddr ⟨x, y⟩).index = BitVec.ofNat 14 (64 * x.toNat + y.toNat / 4) := by
      rw [waddr, Nat.shiftRight_eq_div_pow]
    rw [← hindex]
    exact ⟨_, _, exec_rdpix_of_complete x y hphase, exec_rdw_of_complete _ hphase, rfl⟩

/-! The round trip (R173). -/

/-- Words of 0 have pixels of 0. -/
theorem proj_of_wordRead_zero {w : List WordCell} (h : ∀ k, wordRead w k = 0) (c : Coord) : proj w c = 0 := by
  rw [proj, h]
  exact laneByte_zero _

/-- Settles O33: PACK ORs the byte into a pixel of 0 and leaves the other pixels, which are 0. -/
theorem packThenProject : Obligations.PackThenProject := by
  refine fun w c v hzero => ⟨?_, fun d hd => ?_⟩
  · rw [proj_pack_same, proj_of_wordRead_zero hzero]
    exact BitVec.zero_or
  · rw [proj_pack_other w c v hd, proj_of_wordRead_zero hzero]

/-! The writers of W (R174). -/

/-- An internal step that changes the word array is VSTEP's success arm or DSTEP (R145, R147). -/
theorem sequencer_changes_w {s t : State} (h : sequencer s = .next t) (hw : t.w ≠ s.w) :
    (s.phase = .validating ∧ t.phase = .decoding ∧ ∀ k, wordRead t.w k = 0) ∨
    (s.phase = .decoding ∧ t.phase = .decoding ∧ t.i.toNat = s.i.toNat + 1) := by
  obtain ⟨_, rfl⟩ | ⟨hphase, rfl⟩ | ⟨hphase, hi, hdstep⟩ | ⟨_, _, rfl⟩ := sequencer_next h
  · exact absurd rfl hw
  · obtain ⟨_, hraise⟩ | ⟨_, hraise⟩ | ⟨_, _, hraise⟩ | ⟨_, _, hstart⟩ := vstep_cases s
    · exact absurd (by rw [hraise, raise_w]) hw
    · exact absurd (by rw [hraise, raise_w]) hw
    · exact absurd (by rw [hraise, raise_w]) hw
    · rw [hstart]
      exact .inl ⟨hphase, rfl, wordRead_zero⟩
  · obtain ⟨b, hread, rfl⟩ := dstep_next hdstep
    obtain ⟨u, hseq, _, hcounter, _⟩ := dstepPacksOneByte s b hphase hi hread
    obtain rfl := Host.Outcome.next.inj (h.symm.trans hseq)
    exact .inr ⟨hphase, hphase, hcounter⟩
  · exact absurd rfl hw

/-- No command writes W, whether it is answered, rejected or accepted as a load (R174). -/
theorem takeCommand_w {s t : State} {cw : Word} (h : takeCommand cw s = .next t) : t.w = s.w := by
  obtain ⟨c, d, rfl⟩ | ⟨_, _, _, e, f, st, rfl⟩ := takeCommand_next_cases h
  · rfl
  · rfl

/-- Settles O41: of all that a step can do, only an internal step and a reset change the word array. -/
theorem onlyTheSequencerWritesW : Obligations.OnlyTheSequencerWritesW := by
  intro s t hstep hreset ⟨k, hk⟩
  have hw : t.w ≠ s.w := fun h => hk (by rw [h])
  obtain ⟨hseq, _⟩ | ⟨rest, _, hseq⟩ | ⟨rest, hhost, _⟩ | ⟨o, rest, _, _, rfl⟩ | ⟨cw, rest, _, _, htake⟩ :=
    step_next hstep
  · exact sequencer_changes_w hseq hw
  · exact sequencer_changes_w (s := dropMove rest s) hseq hw
  · exact absurd hhost (hreset rest)
  · exact absurd rfl hw
  · exact absurd (takeCommand_w htake) hw

end Sys2Proof.Machine
end

section
/-! PROOFS. The failures of a load (60_exceptions.md): VSTEP's three failing arms (R184, R185), and that a load fails
before the first write to W (R196). -/

namespace Sys2Proof.Machine

/-! VSTEP's failing arms, source status first and length second (R145). -/

section
variable {s : State}

theorem vstep_of_notFound (h : s.sstat = .notFound) : vstep s = raise .notFound s := by
  simp only [vstep, h]

theorem vstep_of_ioFail (h : s.sstat = .ioFail) : vstep s = raise (.ioFailure s.cause) s := by
  simp only [vstep, h]

theorem vstep_of_invalidSize (hsstat : s.sstat = .ok) (hlen : s.len ≠ errExpected) :
    vstep s = raise (.invalidSize s.len) s := by
  simp only [vstep, hsstat, if_neg hlen]

end

/-- Settles O34: each failing arm is one `raise`, which writes what the statement lists. -/
theorem vstepFailsInOrder : Obligations.VstepFailsInOrder := by
  intro s hphase
  rw [sequencer_of_validating hphase]
  refine ⟨fun hsstat => ?notFound, fun hsstat => ?ioFail, fun hsstat hlen => ?invalidSize⟩
  case notFound => rw [vstep_of_notFound hsstat, raise]
  case ioFail => rw [vstep_of_ioFail hsstat, raise]
  case invalidSize => rw [vstep_of_invalidSize hsstat hlen, raise]

/-! The steps into Failed (R196). -/

/-- An internal step into Failed is VSTEP's: DSTEP stays in Decoding and CSTEP goes to Complete (R140). It leaves W,
for an internal step that changes W goes to Decoding (R174). -/
theorem sequencer_into_failed {s t : State} (h : sequencer s = .next t) (hs : s.phase ≠ .failed)
    (ht : t.phase = .failed) : s.phase = .validating ∧ t.w = s.w := by
  refine ⟨?phase, ?words⟩
  case phase =>
    obtain ⟨_, rfl⟩ | ⟨hvalidating, _⟩ | ⟨hdecoding, _, hdstep⟩ | ⟨_, _, rfl⟩ := sequencer_next h
    · exact absurd ht hs
    · exact hvalidating
    · obtain ⟨b, _, rfl⟩ := dstep_next hdstep
      cases hdecoding.symm.trans ht
    · cases ht
  case words =>
    by_contra hw
    obtain ⟨_, hdecoding, _⟩ | ⟨_, hdecoding, _⟩ := sequencer_changes_w h hw
    · cases hdecoding.symm.trans ht
    · cases hdecoding.symm.trans ht

/-- No command goes to Failed: an accepted load goes to Validating, any other answer leaves PHASE (R144). -/
theorem takeCommand_not_into_failed {s t : State} {cw : Word} (h : takeCommand cw s = .next t)
    (hs : s.phase ≠ .failed) : t.phase ≠ .failed := by
  obtain ⟨c, d, rfl⟩ | ⟨_, _, _, e, f, st, rfl⟩ := takeCommand_next_cases h
  · exact hs
  · exact Phase.noConfusion

/-- Settles O40: of all that a step can do, only an internal step goes to Failed. -/
theorem failuresArePrecise : Obligations.FailuresArePrecise := by
  intro s t hstep hs ht
  obtain ⟨hvalidating, hw⟩ : s.phase = .validating ∧ t.w = s.w := by
    obtain ⟨hseq, _⟩ | ⟨rest, _, hseq⟩ | ⟨rest, _, rfl⟩ | ⟨o, rest, _, _, rfl⟩ | ⟨cw, rest, _, _, htake⟩ :=
      step_next hstep
    · exact sequencer_into_failed hseq hs ht
    · exact sequencer_into_failed (s := dropMove rest s) hseq hs ht
    · cases ht
    · exact absurd ht hs
    · exact absurd ht (takeCommand_not_into_failed htake hs)
  exact ⟨hvalidating, fun k => by rw [hw]⟩

end Sys2Proof.Machine
end

section
/-! PROOFS. Reset (R210, R211): the state it leaves, and what the commands answer there. -/

namespace Sys2Proof.Machine

/-- Reset lands in any state, busy ones included (R210). -/
theorem step_of_reset {s : State} {rest : List HostMove} (hhost : s.host = .reset :: rest) :
    step s = .next (applyReset (dropMove rest s)) := by
  simp only [step, agentsStep, hhost]

/-- Settles O55: the fields and the port are those of the state reset leaves; that state is ready, so each query answers
its function, and it is not Complete, so each read is too early. -/
theorem resetInAnyState : Obligations.ResetInAnyState := by
  intro s rest hhost
  have hready : (applyReset (dropMove rest s)).busy = false := rfl
  have hunexposed : (applyReset (dropMove rest s)).phase ≠ .complete := Phase.noConfusion
  refine ⟨applyReset (dropMove rest s), step_of_reset hhost, rfl, rfl, rfl, rfl, rfl, hready, rfl, rfl, rfl, rfl,
    errExpected_eq, rfl, rfl, ?rdpix, ?rdw, ?qcmap, ?qbrev, ?qfdec, ?qwaddr⟩
  case rdpix => exact fun _ _ => exec_of_readsTooEarly hready ⟨.inl rfl, hunexposed⟩
  case rdw => exact fun _ => exec_of_readsTooEarly hready ⟨.inr rfl, hunexposed⟩
  case qcmap =>
    intro i
    rw [cmap_x_eq_extract, cmap_y_eq_not_extract]
    exact exec_qcmap i hready
  case qbrev => exact fun v => exec_qbrev v hready
  case qfdec => exact fun f b => exec_qfdec f b hready
  case qwaddr =>
    intro x y
    rw [waddr_lane_eq_not_extract, waddr_index_eq_append]
    exact exec_qwaddr x y hready

end Sys2Proof.Machine
end

section
/-! PROOFS. The encoder against the decoder (R71, R76): the operand fields at the bottom of a word are read back where
they were put, and the words that match a row are its match with operands below it. -/

namespace Sys2Proof

/-! One field over a base whose bits below it are 0. -/

/-- The field at the bottom of a word. -/
theorem extractLsb'_low_field {n : Nat} {base : Word} (v : BitVec n) (hn : n ≤ 32) (hbase : base.extractLsb' 0 n = 0) :
    (base ||| v.setWidth 32).extractLsb' 0 n = v := by
  rw [BitVec.extractLsb'_or, hbase, BitVec.ofNat_eq_ofNat, BitVec.zero_or]
  apply BitVec.eq_of_getLsbD_eq
  intro k hk
  have hword : k < 32 := by omega
  simp [hk, hword]

/-- The field above a field of `n` bits. -/
theorem extractLsb'_high_field {n m : Nat} {base : Word} (u : BitVec m) (v : BitVec n) (h : n + m ≤ 32)
    (hbase : base.extractLsb' n m = 0) :
    (base ||| u.setWidth 32 <<< n ||| v.setWidth 32).extractLsb' n m = u := by
  rw [BitVec.extractLsb'_or, BitVec.extractLsb'_or, hbase, BitVec.ofNat_eq_ofNat, BitVec.zero_or]
  apply BitVec.eq_of_getLsbD_eq
  intro k hk
  have hword : n + k < 32 := by omega
  simp [hk, hword]

/-- A field above the bottom `n` bits leaves them 0. -/
theorem extractLsb'_below_field {n m : Nat} {base : Word} (u : BitVec m) (hbase : base.extractLsb' 0 n = 0) :
    (base ||| u.setWidth 32 <<< n).extractLsb' 0 n = 0 := by
  rw [BitVec.extractLsb'_or, hbase, BitVec.ofNat_eq_ofNat, BitVec.zero_or]
  apply BitVec.eq_of_getLsbD_eq
  intro k hk
  simp [hk]

/-- Two fields side by side are the one field that spans them. -/
theorem setWidth_extractLsb'_add (cw : Word) (n m : Nat) :
    (cw.extractLsb' n m).setWidth 32 <<< n ||| (cw.extractLsb' 0 n).setWidth 32 =
      (cw.extractLsb' 0 (n + m)).setWidth 32 := by
  apply BitVec.eq_of_getLsbD_eq
  intro k hk
  by_cases hlow : k < n
  · have hspan : k < n + m := by omega
    simp [hk, hlow, hspan]
  · have hoff : n + (k - n) = k := by omega
    have hspan : k - n < m ↔ k < n + m := by omega
    simp [hk, hlow, hoff, hspan]

/-! The codes of a format and of a source status. -/

@[simp] theorem Format.ofCode_code (f : Format) : Format.ofCode f.code = f := by
  cases f <;> rfl

@[simp] theorem Format.code_ofCode (c : BitVec 1) : (Format.ofCode c).code = c := by
  revert c; decide

@[simp] theorem SrcStatus.ofCode_code (st : SrcStatus) : SrcStatus.ofCode st.code = some st := by
  cases st <;> rfl

theorem SrcStatus.code_of_ofCode {c : BitVec 2} {st : SrcStatus} (h : SrcStatus.ofCode c = some st) : st.code = c := by
  revert c; cases st <;> decide

/-! Encode, then decode. -/

/-- The word of a command matches its row (R76). -/
theorem encode_matches (i : Instr) : encode i &&& i.opcode.maskBits = i.opcode.matchBits := by
  cases i with
  | nop => exact Laws.MaskMatch.nop.2
  | loadb f st => exact (Laws.MaskMatch.loadb f st).2
  | loadf f st => exact (Laws.MaskMatch.loadf f st).2
  | rdpix x y => exact (Laws.MaskMatch.rdpix x y).2
  | rdw k => exact (Laws.MaskMatch.rdw k).2
  | qcmap i => exact (Laws.MaskMatch.qcmap i).2
  | qbrev v => exact (Laws.MaskMatch.qbrev v).2
  | qfdec f b => exact (Laws.MaskMatch.qfdec f b).2
  | qwaddr x y => exact (Laws.MaskMatch.qwaddr x y).2

/-- A row's match is 0 wherever operands stand. -/
theorem Opcode.extractLsb'_matchBits (op : Opcode) {n m : Nat} (h : n + m ≤ 28) :
    op.matchBits.extractLsb' n m = 0 := by
  apply BitVec.eq_of_getLsbD_eq
  intro k hk
  have hword : n + k < 32 := by omega
  have hlow : ¬ 28 ≤ n + k := by omega
  simp [op.getLsbD_matchBits hword, hlow]

/-- The one operand of a word is read back. -/
theorem Opcode.extractLsb'_operand (op : Opcode) {n : Nat} (v : BitVec n) (hn : n ≤ 28) :
    (op.matchBits ||| v.setWidth 32).extractLsb' 0 n = v :=
  extractLsb'_low_field v (by omega) (op.extractLsb'_matchBits (by omega))

/-- Of two operands the lower is read back. -/
theorem Opcode.extractLsb'_lower_operand (op : Opcode) {n m : Nat} (u : BitVec m) (v : BitVec n) (h : n ≤ 28) :
    (op.matchBits ||| u.setWidth 32 <<< n ||| v.setWidth 32).extractLsb' 0 n = v :=
  extractLsb'_low_field v (by omega) (extractLsb'_below_field u (op.extractLsb'_matchBits (by omega)))

/-- Of two operands the upper is read back. -/
theorem Opcode.extractLsb'_upper_operand (op : Opcode) {n m : Nat} (u : BitVec m) (v : BitVec n) (h : n + m ≤ 28) :
    (op.matchBits ||| u.setWidth 32 <<< n ||| v.setWidth 32).extractLsb' n m = u :=
  extractLsb'_high_field u v (by omega) (op.extractLsb'_matchBits h)

/-- The fields of the word of a legal command are the command's (R71). -/
theorem decodeFields_encode {i : Instr} (hwf : i.wf = true) : decodeFields i.opcode (encode i) = .ok i := by
  cases i with
  | nop => rfl
  | loadb f st =>
    have hfmt : cwLoadFmt (encode (.loadb f st)) = f.code := Opcode.loadb.extractLsb'_lower_operand st.code _ (by decide)
    have hst : cwSstat (encode (.loadb f st)) = st.code := Opcode.loadb.extractLsb'_upper_operand _ f.code (by decide)
    cases st with
    | ok | ioFail => simp [Instr.opcode, decodeFields, decodeLoadb, hfmt, hst]
    | notFound => cases hwf
  | loadf f st =>
    have hfmt : cwLoadFmt (encode (.loadf f st)) = f.code := Opcode.loadf.extractLsb'_lower_operand st.code _ (by decide)
    have hst : cwSstat (encode (.loadf f st)) = st.code := Opcode.loadf.extractLsb'_upper_operand _ f.code (by decide)
    simp [Instr.opcode, decodeFields, decodeLoadf, hfmt, hst]
  | rdpix x y =>
    have hx : cwX (encode (.rdpix x y)) = x := Opcode.rdpix.extractLsb'_lower_operand y _ (by decide)
    have hy : cwY (encode (.rdpix x y)) = y := Opcode.rdpix.extractLsb'_upper_operand _ x (by decide)
    simp [Instr.opcode, decodeFields, hx, hy]
  | rdw k =>
    have hk : cwK (encode (.rdw k)) = k := Opcode.rdw.extractLsb'_operand k (by decide)
    simp [Instr.opcode, decodeFields, hk]
  | qcmap j =>
    have hj : cwI (encode (.qcmap j)) = j := Opcode.qcmap.extractLsb'_operand j (by decide)
    simp [Instr.opcode, decodeFields, hj]
  | qbrev v =>
    have hv : cwV (encode (.qbrev v)) = v := Opcode.qbrev.extractLsb'_operand v (by decide)
    simp [Instr.opcode, decodeFields, hv]
  | qfdec f b =>
    have hfmt : cwQueryFmt (encode (.qfdec f b)) = f.code := Opcode.qfdec.extractLsb'_upper_operand _ b (by decide)
    have hb : cwB (encode (.qfdec f b)) = b := Opcode.qfdec.extractLsb'_lower_operand f.code _ (by decide)
    simp [Instr.opcode, decodeFields, hfmt, hb]
  | qwaddr x y =>
    have hx : cwX (encode (.qwaddr x y)) = x := Opcode.qwaddr.extractLsb'_lower_operand y _ (by decide)
    have hy : cwY (encode (.qwaddr x y)) = y := Opcode.qwaddr.extractLsb'_upper_operand _ x (by decide)
    simp [Instr.opcode, decodeFields, hx, hy]

/-- Settles O2: the word matches its command's row, and its fields are the command's. -/
theorem decodeOfEncode : Obligations.DecodeOfEncode :=
  fun i hwf => (decode_of_match (encode_matches i)).trans (decodeFields_encode hwf)

/-! Decode, then encode. -/

/-- A word that matches a row is the row's match with the word's operands below it. -/
theorem Opcode.matchBits_or_operands {op : Opcode} {cw : Word} (hmatch : cw &&& op.maskBits = op.matchBits) :
    op.matchBits ||| (cw.extractLsb' 0 op.operandWidth).setWidth 32 = cw := by
  rw [← hmatch]
  apply BitVec.eq_of_getLsbD_eq
  intro k hk
  rw [BitVec.getLsbD_or, BitVec.getLsbD_and, op.getLsbD_maskBits hk]
  by_cases hoperand : k < op.operandWidth
  · simp [hk, hoperand]
  · simp [Nat.not_lt.1 hoperand]

/-- The same with two operands, the lower of `n` bits and the upper of `m`. -/
theorem Opcode.matchBits_or_two_operands {op : Opcode} {cw : Word} (n m : Nat) (hwidth : op.operandWidth = n + m)
    (hmatch : cw &&& op.maskBits = op.matchBits) :
    op.matchBits ||| (cw.extractLsb' n m).setWidth 32 <<< n ||| (cw.extractLsb' 0 n).setWidth 32 = cw := by
  rw [BitVec.or_assoc, setWidth_extractLsb'_add, ← hwidth]
  exact matchBits_or_operands hmatch

/-- What LOADB's fields decode to: a status that has a name (R74). -/
theorem decodeLoadb_ok {cw : Word} {i : Instr} (h : decodeLoadb cw = .ok i) :
    ∃ st, SrcStatus.ofCode (cwSstat cw) = some st ∧ i = .loadb (Format.ofCode (cwLoadFmt cw)) st := by
  unfold decodeLoadb at h
  split at h
  · next hst => exact ⟨_, hst, (Except.ok.inj h).symm⟩
  · next hst => exact ⟨_, hst, (Except.ok.inj h).symm⟩
  · cases h
  · cases h

/-- What LOADF's fields decode to. -/
theorem decodeLoadf_ok {cw : Word} {i : Instr} (h : decodeLoadf cw = .ok i) :
    ∃ st, SrcStatus.ofCode (cwSstat cw) = some st ∧ i = .loadf (Format.ofCode (cwLoadFmt cw)) st := by
  unfold decodeLoadf at h
  split at h
  · next hst => exact ⟨_, hst, (Except.ok.inj h).symm⟩
  · cases h

/-- A word that matches a row is the word of the command that its fields give. -/
theorem encode_of_decodeFields {op : Opcode} {cw : Word} {i : Instr} (hmatch : cw &&& op.maskBits = op.matchBits)
    (h : decodeFields op cw = .ok i) : encode i = cw := by
  cases op with
  | nop =>
    obtain rfl := Except.ok.inj h
    exact hmatch.symm.trans BitVec.and_allOnes
  | loadb =>
    obtain ⟨st, hst, rfl⟩ := decodeLoadb_ok h
    rw [encode, SrcStatus.code_of_ofCode hst, Format.code_ofCode]
    exact Opcode.matchBits_or_two_operands 1 2 rfl hmatch
  | loadf =>
    obtain ⟨st, hst, rfl⟩ := decodeLoadf_ok h
    rw [encode, SrcStatus.code_of_ofCode hst, Format.code_ofCode]
    exact Opcode.matchBits_or_two_operands 1 2 rfl hmatch
  | qfdec =>
    obtain rfl := Except.ok.inj h
    rw [encode, Format.code_ofCode]
    exact Opcode.matchBits_or_two_operands 8 1 rfl hmatch
  | rdpix | qwaddr =>
    obtain rfl := Except.ok.inj h
    exact Opcode.matchBits_or_two_operands 8 8 rfl hmatch
  | rdw | qcmap | qbrev =>
    obtain rfl := Except.ok.inj h
    exact Opcode.matchBits_or_operands hmatch

/-- A word that decodes matches the row of its command, which is legal. -/
theorem decode_ok {cw : Word} {i : Instr} (h : decode cw = .ok i) :
    cw &&& i.opcode.maskBits = i.opcode.matchBits ∧ i.wf = true := by
  obtain ⟨_, herr⟩ | ⟨op, _, ⟨_, herr⟩ | ⟨_, _, herr⟩ | ⟨hmatch, _, j, hj, rfl, hwf⟩⟩ := decode_cases cw
  · simp [herr] at h
  · simp [herr] at h
  · simp [herr] at h
  · obtain rfl : j = i := Except.ok.inj (hj.symm.trans h)
    exact ⟨hmatch, hwf⟩

/-- Settles O3: the word matches the row of its command, whose match and operands are the command's word. -/
theorem encodeOfDecode : Obligations.EncodeOfDecode := by
  intro cw i h
  obtain ⟨hmatch, hwf⟩ := decode_ok h
  exact ⟨hwf, encode_of_decodeFields hmatch ((decode_of_match hmatch).symm.trans h)⟩

end Sys2Proof
end

section
/-! PROOFS. The invariants of R25 along a step: each update of the state that a step can make keeps them. -/

namespace Sys2Proof.Machine

/-- The offset counter after a DSTEP: 17 bits do not wrap (R13). -/
theorem stored_i_toNat {s : State} (w : List WordCell) (hi : s.i.toNat < 65536) :
    (stored w s).i.toNat = s.i.toNat + 1 :=
  BitVec.toNat_add_of_lt (show s.i.toNat + 1 < 2 ^ 17 by omega)

section
variable {s : State}

/-- Outside Failed the three error registers are clear (R25 clauses 2 and 3). -/
theorem State.Inv.errors_clear (h : s.Inv) (hphase : s.phase ≠ .failed) :
    s.err = .clear ∧ s.errActual = 0 ∧ s.errCause = 0 := by
  have herr : s.err = .clear := not_not.1 (mt h.errIffFailed.1 hphase)
  refine ⟨herr, not_not.1 fun hactual => ?_, not_not.1 fun hcause => ?_⟩
  · cases herr.symm.trans (h.errActualOnlyInvalidSize hactual)
  · cases herr.symm.trans (h.errCauseOnlyIoFailure hcause)

/-- A state that is not in Failed and has clear error registers meets clauses 2 and 3. -/
theorem inv_of_errors_clear (hphase : s.phase ≠ .failed) (hclear : s.err = .clear ∧ s.errActual = 0 ∧ s.errCause = 0)
    (latched : s.phase = .validating → s.len = s.buf.len ∧ (s.sstat = .notFound → s.entry = .file))
    (decoding : s.phase = .decoding → s.i.toNat ≤ 65536 ∧ s.buf.len = errExpected ∧
      ∀ (j : Offset) (b : Byte), bufferRead s.buf j.toNat = some b →
        proj s.w (cmap j) = if j.toNat < s.i.toNat then fdec s.fmt b else 0)
    (complete : s.phase = .complete → s.buf.len = errExpected ∧
      ∀ (x y b : Byte), bufferRead s.buf (256 * (255 - y.toNat) + x.toNat) = some b →
        proj s.w ⟨x, y⟩ = fdec s.fmt b) : s.Inv := by
  obtain ⟨herr, hactual, hcause⟩ := hclear
  exact ⟨iff_of_false (not_not.2 herr) hphase, absurd hactual, absurd hcause, latched, decoding, complete⟩

/-! The host's moves, a response, reset and ACCEPT. -/

/-- The invariants speak of none of the ports and not of the host's moves. -/
theorem State.Inv.ports (h : s.Inv) (operands : OperandPort) (response : Option Response) (host : List HostMove) :
    ({ s with operands := operands, response := response, host := host } : State).Inv :=
  ⟨h.errIffFailed, h.errActualOnlyInvalidSize, h.errCauseOnlyIoFailure, h.latched, h.decoding, h.complete⟩

theorem inv_applyReset (s : State) : (applyReset s).Inv :=
  inv_of_errors_clear Phase.noConfusion ⟨rfl, rfl, rfl⟩ Phase.noConfusion Phase.noConfusion Phase.noConfusion

/-- ACCEPT latches the length of the buffer it fixes (R144, D33). -/
theorem inv_accept {entry : Entry} {fmt : Format} {sstat : SrcStatus} (hentry : sstat = .notFound → entry = .file) :
    (accept entry fmt sstat s).Inv :=
  inv_of_errors_clear Phase.noConfusion ⟨rfl, rfl, rfl⟩ (fun _ => ⟨rfl, hentry⟩) Phase.noConfusion Phase.noConfusion

theorem takeCommand_inv {t : State} {cw : Word} (h : s.Inv) (htake : takeCommand cw s = .next t) : t.Inv := by
  obtain ⟨i, _, hexec⟩ | ⟨_, _, rfl⟩ := takeCommand_next htake
  · obtain ⟨_, ⟨c, d, rfl⟩ | ⟨e, f, st, rfl, hentry⟩⟩ := exec_next hexec
    · exact h.ports ..
    · exact (inv_accept hentry).ports ..
  · exact h.ports ..

/-! The internal steps. -/

/-- A failure raised over clear error registers sets ERR and its own payload alone (R185). -/
theorem inv_raise (h : s.Inv) (hphase : s.phase = .validating) (f : Failure) : (raise f s).Inv := by
  obtain ⟨_, hactual, hcause⟩ := h.errors_clear (by simp [hphase])
  cases f <;> constructor <;> simp [raise, hactual, hcause]

/-- Decoding starts at offset 0, from words of 0 (R146). -/
theorem inv_startDecoding (h : s.Inv) (hphase : s.phase = .validating) (hlen : s.len = errExpected) :
    (startDecoding s).Inv := by
  obtain ⟨hbuf, _⟩ := h.latched hphase
  exact inv_of_errors_clear Phase.noConfusion (h.errors_clear (by simp [hphase])) Phase.noConfusion
    (fun _ => ⟨Nat.zero_le _, hbuf.symm.trans hlen, fun j _ _ => proj_wordsZero (cmap j)⟩) Phase.noConfusion

theorem inv_vstep (h : s.Inv) (hphase : s.phase = .validating) : (vstep s).Inv := by
  obtain ⟨_, hv⟩ | ⟨_, hv⟩ | ⟨_, _, hv⟩ | ⟨_, hlen, hv⟩ := vstep_cases s <;> rw [hv]
  · exact inv_raise h hphase _
  · exact inv_raise h hphase _
  · exact inv_raise h hphase _
  · exact inv_startDecoding h hphase hlen

/-- DSTEP ORs the decoded byte at `i` into a pixel that was 0 and leaves every other pixel (R25 clause 4, R147). -/
theorem inv_stored {b : Byte} (h : s.Inv) (hphase : s.phase = .decoding) (hi : s.i.toNat < 65536)
    (hread : bufferRead s.buf s.i.toNat = some b) :
    (stored (pack s.w (cmap (s.i.setWidth 16)) (fdec s.fmt b)) s).Inv := by
  obtain ⟨_, hlen, hpixels⟩ := h.decoding hphase
  have hoffset := offset_toNat hi
  refine inv_of_errors_clear (by simp [hphase]) (h.errors_clear (by simp [hphase])) (by simp [hphase])
    (fun _ => ⟨?counter, hlen, fun j c hc => ?pixels⟩) (by simp [hphase])
  case counter =>
    rw [stored_i_toNat _ hi]
    exact hi
  case pixels =>
    rw [stored_i_toNat _ hi, stored_w, stored_fmt]
    rw [stored_buf] at hc
    by_cases hj : j = s.i.setWidth 16
    · subst hj
      rw [hoffset] at hc
      obtain rfl : b = c := Option.some.inj (hread.symm.trans hc)
      rw [proj_pack_same, hpixels _ b (hoffset.symm ▸ hread), hoffset, if_neg (Nat.lt_irrefl _),
        if_pos (Nat.lt_succ_self _)]
      exact BitVec.zero_or
    · have hne : j.toNat ≠ s.i.toNat := fun e => hj (BitVec.eq_of_toNat_eq (e.trans hoffset.symm))
      have hlt : j.toNat < s.i.toNat + 1 ↔ j.toNat < s.i.toNat := by omega
      rw [proj_pack_other _ _ _ (cmap_bijective.injective.ne hj), hpixels j c hc]
      simp only [hlt]

/-- At the end of the buffer every pixel is decoded, since CMAP reaches each (R25 clause 5, R101). -/
theorem inv_cstep (h : s.Inv) (hphase : s.phase = .decoding) (hi : s.i.toNat = 65536) : (cstep s).Inv := by
  obtain ⟨_, hlen, hpixels⟩ := h.decoding hphase
  refine inv_of_errors_clear Phase.noConfusion (h.errors_clear (by simp [hphase])) Phase.noConfusion Phase.noConfusion
    fun _ => ⟨hlen, fun x y b hread => ?_⟩
  have hpixel := hpixels (cmapInv ⟨x, y⟩) b (by rw [cmapInv_toNat]; exact hread)
  rwa [cmap_cmapInv, hi, if_pos (cmapInv ⟨x, y⟩).isLt] at hpixel

theorem sequencer_inv {t : State} (h : s.Inv) (hseq : sequencer s = .next t) : t.Inv := by
  obtain ⟨_, rfl⟩ | ⟨hphase, rfl⟩ | ⟨hphase, hi, hdstep⟩ | ⟨hphase, hi, rfl⟩ := sequencer_next hseq
  · exact h
  · exact inv_vstep h hphase
  · obtain ⟨b, hread, rfl⟩ := dstep_next hdstep
    exact inv_stored h hphase hi hread
  · exact inv_cstep h hphase hi

end

/-- Settles O49: whatever a step can do keeps the invariants. -/
theorem stepKeepsTheInvariant : Obligations.StepKeepsTheInvariant := by
  intro s t h hstep
  obtain ⟨hseq, _⟩ | ⟨rest, _, hseq⟩ | ⟨rest, _, rfl⟩ | ⟨o, rest, _, _, rfl⟩ | ⟨cw, rest, _, _, htake⟩ :=
    step_next hstep
  · exact sequencer_inv h hseq
  · exact sequencer_inv (s := dropMove rest s) (h.ports ..) hseq
  · exact inv_applyReset _
  · exact h.ports ..
  · exact takeCommand_inv (s := dropMove rest s) (h.ports ..) htake

/-- Settles O48: the machine right after reset is one that reset leaves, and its arrays are empty. -/
theorem resetMeetsTheInvariant : Obligations.ResetMeetsTheInvariant :=
  ⟨inv_applyReset State.reset, rfl⟩

end Sys2Proof.Machine
end

section
/-! PROOFS. The step of the two agents, one equation per move of the host (R7, R156), and of several blocks (R55). -/

namespace Sys2Proof.Machine

section
variable {s : State} {rest : List HostMove}

theorem step_of_no_move (hhost : s.host = []) : step s = sequencer s := by
  simp only [step, agentsStep, hhost]

theorem step_of_pass (hhost : s.host = .pass :: rest) : step s = sequencer (dropMove rest s) := by
  simp only [step, agentsStep, hhost]

theorem step_of_present {o : OperandPort} (hhost : s.host = .present o :: rest) (hbusy : s.busy = false) :
    step s = .next { dropMove rest s with operands := o } := by
  simp [step, agentsStep, hhost, hbusy]

/-- Every command is guarded by `busy = 0` (R156). -/
theorem exec_eq_whenReady (i : Instr) (s : State) : ∃ t, exec i s = whenReady s t := by
  cases i <;> exact ⟨_, rfl⟩

/-- An internal step leaves the host's moves, the response port, the operand port and the load's buffer. -/
theorem sequencer_frame {t : State} (h : sequencer s = .next t) :
    t.host = s.host ∧ t.response = s.response ∧ t.operands = s.operands ∧ t.buf = s.buf := by
  obtain ⟨_, rfl⟩ | ⟨_, rfl⟩ | ⟨_, _, hdstep⟩ | ⟨_, _, rfl⟩ := sequencer_next h
  · exact ⟨rfl, rfl, rfl, rfl⟩
  · obtain ⟨_, hv⟩ | ⟨_, hv⟩ | ⟨_, _, hv⟩ | ⟨_, _, hv⟩ := vstep_cases s <;> rw [hv] <;> exact ⟨rfl, rfl, rfl, rfl⟩
  · obtain ⟨b, _, rfl⟩ := dstep_next hdstep
    exact ⟨rfl, rfl, rfl, rfl⟩
  · exact ⟨rfl, rfl, rfl, rfl⟩

end

/-- Settles O8: the host waits, and the sequencer's step leaves its ports. -/
theorem commandsWaitWhileBusy : Obligations.CommandsWaitWhileBusy := by
  refine fun s hbusy => ⟨step_of_busy hbusy, fun t hseq => ?_⟩
  obtain ⟨hhost, hresponse, hoperands, _⟩ := sequencer_frame hseq
  exact ⟨hhost, hresponse, hoperands⟩

/-- Settles O7: taking a word is decoding and executing it. -/
theorem stepRunsTheDecodedCommand : Obligations.StepRunsTheDecodedCommand :=
  fun _ _ _ _ => step_of_decode_ok

/-- Settles O9: the guard of every command refuses. -/
theorem commandRefusedWhileBusy : Obligations.CommandRefusedWhileBusy := by
  intro i s hbusy
  obtain ⟨t, hexec⟩ := exec_eq_whenReady i s
  exact hexec.trans (whenReady_busy t hbusy)

/-- Settles O10, move by move. -/
theorem hostMoves : Obligations.HostMoves :=
  fun _ _ => ⟨step_of_pass, fun _ => step_of_present,
    fun hbusy hhost => (step_of_no_move hhost).trans (sequencer_of_not_busy hbusy)⟩

/-- Settles O15: the guard passes, and the answer is REJECT. -/
theorem loadbNeverNotFound : Obligations.LoadbNeverNotFound :=
  fun _ _ hbusy => whenReady_ready _ hbusy

/-- Settles O57: the stepping block's entry of the vector is set, and the others are not. -/
theorem blocksShareNothing : Obligations.BlocksShareNothing := by
  intro n blocks after b h
  unfold stepBlock at h
  split at h
  · next t hstep =>
    obtain rfl := Host.Outcome.next.inj h
    refine ⟨hstep.trans ?_, fun c hc => ?_⟩
    · simp [Vector.get_eq_getElem]
    · have hne : (b : Nat) ≠ c := fun e => hc (Fin.ext e.symm)
      simp [Vector.get_eq_getElem, hne]
  · cases h
  · cases h

/-- Settles O58, line by line: WAIT adds no move. -/
theorem waitIsNoCommand : Obligations.WaitIsNoCommand := by
  intro l
  induction l with
  | nil => rfl
  | cons line rest ih =>
    cases line with
    | wait => exact ih
    | command i o => exact congrArg (lineMoves (.command i o) ++ ·) ih

end Sys2Proof.Machine
end

section
/-! PROOFS. What the commands leave as it was (R46, R193), and the transition table of PHASE (R140). -/

namespace Sys2Proof.Machine

/-- Settles O22: a command that is not a load writes the response alone. -/
theorem readsAndQueriesFrame : Obligations.ReadsAndQueriesFrame := by
  intro i s t hloadb hloadf hexec
  obtain ⟨c, d, rfl⟩ := exec_next_of_not_load (not_or.2 ⟨hloadb, hloadf⟩) hexec
  exact ⟨rfl, rfl, rfl, rfl, rfl, rfl, rfl, rfl, rfl, rfl, rfl, rfl, rfl, rfl, rfl, fun _ => rfl⟩

/-- Settles O23: neither an answer nor ACCEPT writes what the statement lists. -/
theorem loadFrame : Obligations.LoadFrame := by
  intro i s t _ hexec
  obtain ⟨_, ⟨c, d, rfl⟩ | ⟨e, f, st, rfl, _⟩⟩ := exec_next hexec
  · exact ⟨rfl, rfl, rfl, rfl, fun _ => rfl⟩
  · exact ⟨rfl, rfl, rfl, rfl, fun _ => rfl⟩

/-- Settles O37: CSTEP writes PHASE and the latches it discards. -/
theorem cstepCompletes : Obligations.CstepCompletes :=
  fun _ hphase hi => ⟨_, sequencer_of_decoded hphase hi, rfl, rfl, rfl⟩

/-- What an internal step does to PHASE (R140). -/
theorem sequencer_phase {s t : State} (h : sequencer s = .next t) :
    t.phase = s.phase ∨
    (s.phase = .validating ∧ t.phase = .failed ∧ (s.sstat ≠ .ok ∨ s.len ≠ errExpected)) ∨
    (s.phase = .validating ∧ t.phase = .decoding ∧ s.sstat = .ok ∧ s.len = errExpected) ∨
    (s.phase = .decoding ∧ t.phase = .complete ∧ s.i.toNat = 65536) := by
  obtain ⟨_, rfl⟩ | ⟨hphase, rfl⟩ | ⟨_, _, hdstep⟩ | ⟨hphase, hi, rfl⟩ := sequencer_next h
  · exact .inl rfl
  · obtain ⟨hst, hv⟩ | ⟨hst, hv⟩ | ⟨_, hlen, hv⟩ | ⟨hst, hlen, hv⟩ := vstep_cases s <;> rw [hv]
    · exact .inr (.inl ⟨hphase, rfl, .inl (by simp [hst])⟩)
    · exact .inr (.inl ⟨hphase, rfl, .inl (by simp [hst])⟩)
    · exact .inr (.inl ⟨hphase, rfl, .inr hlen⟩)
    · exact .inr (.inr (.inl ⟨hphase, rfl, hst, hlen⟩))
  · obtain ⟨b, _, rfl⟩ := dstep_next hdstep
    exact .inl rfl
  · exact .inr (.inr (.inr ⟨hphase, rfl, hi⟩))

/-- Settles O38: the edges of an internal step, reset's edge, and the edge of an accepted load. -/
theorem phaseTransitions : Obligations.PhaseTransitions := by
  intro s t hstep
  obtain ⟨hseq, _⟩ | ⟨rest, _, hseq⟩ | ⟨rest, hhost, rfl⟩ | ⟨o, rest, _, _, rfl⟩ | ⟨cw, rest, hhost, hbusy, htake⟩ :=
    step_next hstep
  · exact (sequencer_phase hseq).imp_right fun h => .inr (h.imp_right (.imp_right .inl))
  · exact (sequencer_phase (s := dropMove rest s) hseq).imp_right fun h => .inr (h.imp_right (.imp_right .inl))
  · exact .inr (.inr (.inr (.inr (.inr ⟨rfl, rest, hhost⟩))))
  · exact .inl rfl
  · obtain ⟨c, d, rfl⟩ | ⟨i, hi, hload, e, f, st, rfl⟩ := takeCommand_next_cases htake
    · exact .inl rfl
    · exact .inr (.inl ⟨hbusy, rfl, cw, rest, i, hhost, hi, hload⟩)

end Sys2Proof.Machine
end

section
/-! PROOFS. A state with the invariants never stops (R41, R153, R221). -/

namespace Sys2Proof.Machine

/-- VSTEP goes to Failed, or to Decoding at offset 0 (R145). -/
theorem vstep_leaves_validating (s : State) :
    (vstep s).phase = .failed ∨ (vstep s).phase = .decoding ∧ (vstep s).i = 0 := by
  obtain ⟨_, hv⟩ | ⟨_, hv⟩ | ⟨_, _, hv⟩ | ⟨_, _, hv⟩ := vstep_cases s <;> rw [hv]
  · exact .inl rfl
  · exact .inl rfl
  · exact .inl rfl
  · exact .inr ⟨rfl, rfl⟩

/-- While decoding, the buffer has a byte at the counter (R41). -/
theorem State.Inv.bufferRead_counter {s : State} (h : s.Inv) (hphase : s.phase = .decoding) (hi : s.i.toNat < 65536) :
    bufferRead s.buf s.i.toNat = some (cellsRead s.buf.cells s.i.toNat) := by
  obtain ⟨_, hlen, _⟩ := h.decoding hphase
  exact bufferRead_of_lt (by rw [hlen]; exact hi)

/-- Settles O53: VSTEP leaves Validating; in Decoding the counter is at most 65,536, DSTEP advances it and CSTEP ends. -/
theorem busyBlockMakesProgress : Obligations.BusyBlockMakesProgress := by
  intro s h hbusy
  obtain hphase | hphase := (busy_iff s).1 hbusy
  · exact ⟨_, sequencer_of_validating hphase, .inl ⟨hphase, vstep_leaves_validating s⟩⟩
  · obtain ⟨hle, _⟩ := h.decoding hphase
    obtain hi | hi := Nat.lt_or_eq_of_le hle
    · exact ⟨_, sequencer_of_decoding hphase hi (h.bufferRead_counter hphase hi),
        .inr (.inl ⟨hphase, hi, hphase, stored_i_toNat _ hi⟩)⟩
    · exact ⟨_, sequencer_of_decoded hphase hi, .inr (.inr ⟨hphase, hi, rfl⟩)⟩

theorem State.Inv.exists_sequencer {s : State} (h : s.Inv) : ∃ t, sequencer s = .next t := by
  cases hbusy : s.busy with
  | true =>
    obtain ⟨t, hseq, _⟩ := busyBlockMakesProgress s h hbusy
    exact ⟨t, hseq⟩
  | false => exact ⟨s, sequencer_of_not_busy hbusy⟩

/-- A block that is not busy answers every command word (R85). -/
theorem exists_takeCommand {s : State} (cw : Word) (hbusy : s.busy = false) : ∃ t, takeCommand cw s = .next t := by
  rw [takeCommand]
  split
  · next i _ =>
    obtain ⟨t, hexec⟩ := exec_eq_whenReady i s
    exact ⟨t, hexec.trans (whenReady_ready t hbusy)⟩
  · exact ⟨_, rfl⟩

/-- Settles O52, by the host's next move and, where it waits, by the sequencer's progress. -/
theorem invariantStatesStepSafely : Obligations.InvariantStatesStepSafely := by
  intro s h
  rw [State.stepsSafely, step, agentsStep]
  split
  · exact h.exists_sequencer
  · next rest _ => exact (h.ports s.operands s.response rest).exists_sequencer
  · exact ⟨_, rfl⟩
  · split_ifs
    · exact h.exists_sequencer
    · exact ⟨_, rfl⟩
  · next rest _ =>
    split_ifs with hbusy
    · exact h.exists_sequencer
    · exact exists_takeCommand (s := dropMove rest s) _ (Bool.eq_false_iff.2 hbusy)

end Sys2Proof.Machine
end

section
/-! PROOFS. The canonical form of the sparse arrays (log entries 6, 7): every step keeps it, and it is one per
contents. -/

namespace Sys2Proof.Machine

/-! Kept by every step. -/

theorem canonical_iff (s : State) :
    s.canonical = true ↔ wordsWf s.w = true ∧ bufferWf s.buf = true ∧ bufferWf s.operands.buf = true ∧
      s.host.all moveCanonical = true := by
  simp only [State.canonical, Bool.and_eq_true, and_assoc]

/-- An internal step writes the word array by zeroing it or by writing a word. -/
theorem sequencer_wordsWf {s t : State} (hw : wordsWf s.w = true) (h : sequencer s = .next t) :
    wordsWf t.w = true := by
  obtain ⟨_, rfl⟩ | ⟨_, rfl⟩ | ⟨_, _, hdstep⟩ | ⟨_, _, rfl⟩ := sequencer_next h
  · exact hw
  · obtain ⟨_, hv⟩ | ⟨_, hv⟩ | ⟨_, _, hv⟩ | ⟨_, _, hv⟩ := vstep_cases s <;> rw [hv]
    · exact hw
    · exact hw
    · exact hw
    · exact wordsWf_zero
  · obtain ⟨b, _, rfl⟩ := dstep_next hdstep
    exact wordsWf_write _ _ hw
  · exact hw

theorem sequencer_canonical {s t : State} (hs : s.canonical = true) (h : sequencer s = .next t) :
    t.canonical = true := by
  obtain ⟨hw, hdata⟩ := (canonical_iff s).1 hs
  obtain ⟨hhost, _, hoperands, hbuf⟩ := sequencer_frame h
  rw [canonical_iff, hhost, hoperands, hbuf]
  exact ⟨sequencer_wordsWf hw h, hdata⟩

/-- A command leaves the arrays, or fixes the operand port's buffer as the load's (R144). -/
theorem takeCommand_canonical {s t : State} {cw : Word} (hs : s.canonical = true) (h : takeCommand cw s = .next t) :
    t.canonical = true := by
  obtain ⟨c, d, rfl⟩ | ⟨_, _, _, e, f, st, rfl⟩ := takeCommand_next_cases h
  · exact hs
  · obtain ⟨hw, _, hoperands, hhost⟩ := (canonical_iff s).1 hs
    exact (canonical_iff _).2 ⟨hw, hoperands, hoperands, hhost⟩

/-- Settles O50: an internal step writes W in its form, a reset empties the arrays, and a buffer only moves, from the
host to the operand port and from there to the load. -/
theorem stepKeepsTheCanonicalForm : Obligations.StepKeepsTheCanonicalForm := by
  intro s t hs hstep
  obtain ⟨hw, hbuf, hoperands, hhost⟩ := (canonical_iff s).1 hs
  have made {m : HostMove} {rest : List HostMove} (hmoves : s.host = m :: rest) :
      moveCanonical m = true ∧ (dropMove rest s).canonical = true := by
    rw [hmoves, List.all_cons, Bool.and_eq_true] at hhost
    exact ⟨hhost.1, (canonical_iff _).2 ⟨hw, hbuf, hoperands, hhost.2⟩⟩
  obtain ⟨hseq, _⟩ | ⟨rest, hmoves, hseq⟩ | ⟨rest, hmoves, rfl⟩ | ⟨o, rest, hmoves, _, rfl⟩ |
    ⟨cw, rest, hmoves, _, htake⟩ := step_next hstep
  · exact sequencer_canonical hs hseq
  · exact sequencer_canonical (made hmoves).2 hseq
  · obtain ⟨_, _, _, hrest⟩ := (canonical_iff _).1 (made hmoves).2
    exact (canonical_iff _).2 ⟨wordsWf_zero, rfl, hoperands, hrest⟩
  · obtain ⟨ho, hdropped⟩ := made hmoves
    obtain ⟨_, _, _, hrest⟩ := (canonical_iff _).1 hdropped
    exact (canonical_iff _).2 ⟨hw, hbuf, ho, hrest⟩
  · exact takeCommand_canonical (made hmoves).2 htake

/-! One per contents. -/

section
variable {n bound : Nat}

theorem cellsRead_cons_same (a : Nat) (v : BitVec n) (rest : List (Nat × BitVec n)) :
    cellsRead ((a, v) :: rest) a = v := by
  simp [cellsRead]

theorem cellsRead_cons_other {a k : Nat} (v : BitVec n) (rest : List (Nat × BitVec n)) (h : a ≠ k) :
    cellsRead ((a, v) :: rest) k = cellsRead rest k := by
  simp [cellsRead, h]

/-- Arrays in canonical form that read the same below the bound. -/
structure SameCells (bound : Nat) (m m' : List (Nat × BitVec n)) : Prop where
  wf : cellsWf bound m = true
  wf' : cellsWf bound m' = true
  reads : ∀ k < bound, cellsRead m k = cellsRead m' k

theorem SameCells.symm {m m' : List (Nat × BitVec n)} (h : SameCells bound m m') : SameCells bound m' m :=
  ⟨h.wf', h.wf, fun k hk => (h.reads k hk).symm⟩

/-- An index that one of them lists is not below all that the other lists: it would hold 0 there. -/
theorem SameCells.not_below {a : Nat} {v : BitVec n} {rest m' : List (Nat × BitVec n)}
    (h : SameCells bound ((a, v) :: rest) m') : ¬ ∀ c ∈ m', a < c.1 := by
  intro hbelow
  obtain ⟨ha, hv, _⟩ := cellsWf_cons.1 h.wf
  have hread := h.reads a ha
  rw [cellsRead_cons_same, cellsRead_below hbelow] at hread
  exact hv hread

/-- So the least index of one is not below the least index of the other. -/
theorem SameCells.head_le {a b : Nat} {u v : BitVec n} {rest rest' : List (Nat × BitVec n)}
    (h : SameCells bound ((a, u) :: rest) ((b, v) :: rest')) : b ≤ a := by
  obtain ⟨_, _, hbelow, _⟩ := cellsWf_cons.1 h.wf'
  refine not_lt.1 fun hab => h.not_below fun c hc => ?_
  rcases List.mem_cons.1 hc with rfl | hc
  · exact hab
  · exact hab.trans (hbelow c hc)

/-- With the same least index they hold the same value there, and the same cells above it. -/
theorem SameCells.tail {a : Nat} {u v : BitVec n} {rest rest' : List (Nat × BitVec n)}
    (h : SameCells bound ((a, u) :: rest) ((a, v) :: rest')) : u = v ∧ SameCells bound rest rest' := by
  obtain ⟨ha, _, hbelow, hrest⟩ := cellsWf_cons.1 h.wf
  obtain ⟨_, _, hbelow', hrest'⟩ := cellsWf_cons.1 h.wf'
  have hread := h.reads a ha
  rw [cellsRead_cons_same, cellsRead_cons_same] at hread
  refine ⟨hread, hrest, hrest', fun k hk => ?_⟩
  by_cases hak : a = k
  · rw [← hak, cellsRead_below hbelow, cellsRead_below hbelow']
  · have hread := h.reads k hk
    rwa [cellsRead_cons_other _ _ hak, cellsRead_cons_other _ _ hak] at hread

theorem SameCells.eq {m m' : List (Nat × BitVec n)} (h : SameCells bound m m') : m = m' := by
  induction m generalizing m' with
  | nil =>
    cases m' with
    | nil => rfl
    | cons d rest' => exact absurd (by simp) h.symm.not_below
  | cons c rest ih =>
    cases m' with
    | nil => exact absurd (by simp) h.not_below
    | cons d rest' =>
      obtain ⟨a, u⟩ := c
      obtain ⟨b, v⟩ := d
      obtain rfl : a = b := Nat.le_antisymm h.symm.head_le h.head_le
      obtain ⟨rfl, hrest⟩ := h.tail
      rw [ih hrest]

end

/-- Settles O51: the words are the sparse array's values below 16,384. -/
theorem equalWordsAreEqualData : Obligations.EqualWordsAreEqualData := by
  intro w v hw hv h
  refine SameCells.eq (bound := Config.nWords) ⟨hw, hv, fun k hk => ?_⟩
  have hread := h (BitVec.ofNat 14 k)
  rwa [wordRead, wordRead, BitVec.toNat_ofNat, Nat.mod_eq_of_lt hk] at hread

end Sys2Proof.Machine
end

section
/-! PROOFS. The outcome of a whole load (R151, R153): the failing arms, and the completing arm pixel by pixel and word by
word. -/

namespace Sys2Proof.Machine

/-- The command of a load at the port is accepted and answered OK, whatever its source status (R144). -/
theorem step_of_loadAtPort {s : State} {entry : Entry} {fmt : Format} {sstat : SrcStatus} {rest : List HostMove}
    (h : loadAtPort s entry fmt sstat rest) :
    step s = .next (respond .ok 0 (accept entry fmt sstat (dropMove rest s))) := by
  obtain ⟨hbusy, _, cw, hcw, hdecode⟩ := h
  obtain ⟨_, hwf⟩ := decode_ok hdecode
  rw [step_of_decode_ok hbusy hcw hdecode]
  exact exec_loadCommand (s := dropMove rest s) hbusy hwf

/-- Settles O43: the command is accepted, and then VSTEP raises the failure that R145 finds first. -/
theorem failingLoadOutcome : Obligations.FailingLoadOutcome := by
  intro s entry fmt sstat rest h hfails
  have ⟨_, hhost, _⟩ := h
  have hload := step_of_loadAtPort h
  have hvstep : steps 2 s = .next (vstep (respond .ok 0 (accept entry fmt sstat (dropMove rest s)))) := by
    rw [steps_of_step hload, steps_one, step_of_busy rfl hhost, sequencer_of_validating rfl]
  refine ⟨⟨_, (steps_one s).trans hload, rfl⟩, _, hvstep, ?_⟩
  cases sstat with
  | notFound | ioFail => exact ⟨rfl, rfl, rfl, rfl, rfl, rfl, rfl, rfl⟩
  | ok =>
    have hlen : s.operands.buf.len ≠ errExpected := hfails.resolve_left (not_not.2 rfl)
    rw [vstep_of_invalidSize rfl hlen]
    exact ⟨rfl, rfl, rfl, rfl, rfl, rfl, rfl, rfl⟩

/-! The completing arm. -/

theorem eq_append_bytes (w : Word) :
    w = w.extractLsb' 24 8 ++ w.extractLsb' 16 8 ++ w.extractLsb' 8 8 ++ w.extractLsb' 0 8 := by
  iterate 3 rw [BitVec.extractLsb'_append_extractLsb'_eq_extractLsb' (by rfl)]
  exact BitVec.extractLsb'_eq_self.symm

/-- A word is the four pixels of its rows, the lowest row in the most significant lane (R131). -/
theorem wordRead_eq_append (w : List WordCell) (k : WordIndex) :
    wordRead w k = proj w (waddrInv ⟨k, 3⟩) ++ proj w (waddrInv ⟨k, 2⟩) ++ proj w (waddrInv ⟨k, 1⟩) ++
      proj w (waddrInv ⟨k, 0⟩) := by
  simp only [proj, waddr_waddrInv, laneByte_eq_extract]
  exact eq_append_bytes (wordRead w k)

/-- The offset of the pixel in a word and lane (R103, R131). -/
theorem cmapInv_waddrInv_toNat (k : WordIndex) (l : Lane) :
    (cmapInv (waddrInv ⟨k, l⟩)).toNat = 256 * (255 - 4 * (k.toNat % 64) - (3 - l.toNat)) + k.toNat / 64 := by
  rw [cmapInv_toNat, waddrInv_x_toNat, waddrInv_y_toNat, ← Nat.sub_sub]

/-- A pixel of a whole buffer, from the byte at its offset (R151). -/
theorem proj_decodedWords_of_read {fmt : Format} {buf : Buffer} {c : Coord} {n : Nat} {b : Byte}
    (hn : (cmapInv c).toNat = n) (hread : bufferRead buf n = some b) :
    proj (decodedWords fmt buf 65536) c = fdec fmt b := by
  rw [proj_decodedWords_full, hn, cellsRead_of_bufferRead hread]

/-- Settles O44: until the last step the load is decoding, and then the grid is the projection of the whole buffer's
words, which is read by pixel, by offset and by word. -/
theorem completedLoadOutcome : Obligations.CompletedLoadOutcome := by
  intro s entry fmt rest h hlen
  have hwords := fun {c n b} => @proj_decodedWords_of_read fmt s.operands.buf c n b
  refine ⟨fun n hpos hn => ?busy, _, steps_load_complete h hlen, rfl, rfl, rfl, rfl, fun x y b hread => ?pixel,
    fun i b hread => ?offset, fun k b3 b2 b1 b0 h3 h2 h1 h0 => ?word⟩
  case busy =>
    match n, hpos with
    | 1, _ => exact ⟨_, (steps_one s).trans (step_loadAtPort h), rfl⟩
    | n + 2, _ => exact ⟨_, steps_load h hlen (by omega), rfl⟩
  case pixel => exact congrArg some (hwords (cmapInv_toNat _) hread)
  case offset => exact congrArg some (hwords (c := cmap i) (congrArg _ (cmapInv_cmap i)) hread)
  case word =>
    rw [wordRead_eq_append, ← hwords (cmapInv_waddrInv_toNat k 3) h3, ← hwords (cmapInv_waddrInv_toNat k 2) h2,
      ← hwords (cmapInv_waddrInv_toNat k 1) h1, ← hwords (cmapInv_waddrInv_toNat k 0) h0]
    rfl

end Sys2Proof.Machine
end

section
/-! PROOFS. What the host cannot tell apart (R150, R158): two blocks whose registers agree but for those that no rule
reads in their phase go on to show the same. -/

namespace Sys2Proof.Machine

/-- Two states that agree in the ports, the host's moves and the registers of the status port, and in Validating in the
latches, in Decoding in the decode in progress, in Complete in W. -/
structure Indistinct (s1 s2 : State) : Prop where
  phase : s1.phase = s2.phase
  fmt : s1.fmt = s2.fmt
  err : s1.err = s2.err
  errActual : s1.errActual = s2.errActual
  errCause : s1.errCause = s2.errCause
  operands : s1.operands = s2.operands
  response : s1.response = s2.response
  host : s1.host = s2.host
  validating : s1.phase = .validating →
    s1.sstat = s2.sstat ∧ s1.len = s2.len ∧ s1.cause = s2.cause ∧ s1.buf = s2.buf
  decoding : s1.phase = .decoding → s1.i = s2.i ∧ s1.buf = s2.buf ∧ s1.w = s2.w
  complete : s1.phase = .complete → s1.w = s2.w

/-! What the host sees. -/

section
variable {s1 s2 : State}

theorem busy_eq_of_phase_eq (h : s1.phase = s2.phase) : s1.busy = s2.busy := by
  simp only [State.busy, h]

theorem statusPort_eq (hphase : s1.phase = s2.phase) (hfmt : s1.fmt = s2.fmt) (herr : s1.err = s2.err)
    (hactual : s1.errActual = s2.errActual) (hcause : s1.errCause = s2.errCause) : s1.statusPort = s2.statusPort := by
  simp only [State.statusPort, State.busy, State.done, State.fail, hphase, hfmt, herr, hactual, hcause]

/-- Outside Complete there is no grid (R175). -/
theorem grid_of_not_complete (h : s1.phase ≠ .complete) (c : Coord) : grid s1 c = none := by
  unfold grid
  cases hphase : s1.phase with
  | complete => exact absurd hphase h
  | idle | validating | decoding | failed => rfl

theorem Indistinct.grid_eq (h : Indistinct s1 s2) : grid s1 = grid s2 := by
  funext c
  by_cases hphase : s1.phase = .complete
  · rw [grid_of_complete hphase, grid_of_complete (h.phase ▸ hphase), h.complete hphase]
  · rw [grid_of_not_complete hphase, grid_of_not_complete (h.phase ▸ hphase)]

theorem Indistinct.visible_eq (h : Indistinct s1 s2) : s1.visible = s2.visible := by
  rw [State.visible, State.visible, statusPort_eq h.phase h.fmt h.err h.errActual h.errCause, h.response, h.grid_eq]

/-! The updates of a step. -/

theorem Indistinct.dropMove (h : Indistinct s1 s2) (rest : List HostMove) :
    Indistinct (dropMove rest s1) (dropMove rest s2) :=
  { h with host := rfl }

theorem Indistinct.respond (h : Indistinct s1 s2) (c : Resp) (d : Word) :
    Indistinct (respond c d s1) (respond c d s2) :=
  { h with response := rfl }

theorem Indistinct.applyReset (h : Indistinct s1 s2) : Indistinct (applyReset s1) (applyReset s2) :=
  ⟨rfl, rfl, rfl, rfl, rfl, h.operands, rfl, h.host, Phase.noConfusion, Phase.noConfusion, Phase.noConfusion⟩

/-- ACCEPT writes all that VSTEP reads: of what the blocks held before, only the ports and the host's moves are left to
tell them apart (R150). -/
theorem indistinct_accept (entry : Entry) (fmt : Format) (sstat : SrcStatus) (c : Resp) (d : Word)
    (hoperands : s1.operands = s2.operands) (hhost : s1.host = s2.host) :
    Indistinct (Machine.respond c d (accept entry fmt sstat s1)) (Machine.respond c d (accept entry fmt sstat s2)) where
  phase := rfl
  fmt := rfl
  err := rfl
  errActual := rfl
  errCause := rfl
  operands := hoperands
  response := rfl
  host := hhost
  validating := fun _ => by simp [hoperands]
  decoding := Phase.noConfusion
  complete := Phase.noConfusion

theorem Indistinct.raise (h : Indistinct s1 s2) (f : Failure) : Indistinct (raise f s1) (raise f s2) where
  phase := by simp
  fmt := by simp [h.fmt]
  err := by simp
  errActual := by cases f <;> simp [h.errActual]
  errCause := by cases f <;> simp [h.errCause]
  operands := by simp [h.operands]
  response := by simp [h.response]
  host := by simp [h.host]
  validating := by simp
  decoding := by simp
  complete := by simp

/-- VSTEP's checks read the latches, which agree in Validating. -/
theorem Indistinct.vstep (h : Indistinct s1 s2) (hphase : s1.phase = .validating) :
    Indistinct (vstep s1) (vstep s2) := by
  obtain ⟨hsstat, hlen, hcause, hbuf⟩ := h.validating hphase
  obtain ⟨hst, hv⟩ | ⟨hst, hv⟩ | ⟨hst, hl, hv⟩ | ⟨hst, hl, hv⟩ := vstep_cases s1 <;> rw [hv]
  · rw [vstep_of_notFound (hsstat ▸ hst)]
    exact h.raise _
  · rw [vstep_of_ioFail (hsstat ▸ hst), hcause]
    exact h.raise _
  · rw [vstep_of_invalidSize (hsstat ▸ hst) (hlen ▸ hl), hlen]
    exact h.raise _
  · rw [vstep_of_valid (hsstat ▸ hst) (hlen ▸ hl)]
    exact { h with
      phase := rfl, validating := Phase.noConfusion, decoding := fun _ => ⟨rfl, hbuf, rfl⟩,
      complete := Phase.noConfusion }

/-- DSTEP reads and writes the decode in progress alone, which agrees in Decoding. -/
theorem Indistinct.stored (h : Indistinct s1 s2) (hphase : s1.phase = .decoding) (w : List WordCell) :
    Indistinct (stored w s1) (stored w s2) := by
  obtain ⟨hi, hbuf, _⟩ := h.decoding hphase
  exact { h with
    validating := fun hs => absurd (hphase.symm.trans hs) Phase.noConfusion
    decoding := fun _ => ⟨congrArg (· + 1) hi, hbuf, rfl⟩
    complete := fun _ => rfl }

/-- The latches that CSTEP discards take values of their own in each block; nothing reads them (R15). -/
theorem Indistinct.cstep (h : Indistinct s1 s2) (hphase : s1.phase = .decoding) : Indistinct (cstep s1) (cstep s2) := by
  obtain ⟨_, _, hw⟩ := h.decoding hphase
  exact { h with
    phase := rfl, validating := Phase.noConfusion, decoding := Phase.noConfusion, complete := fun _ => hw }

end

/-! The agents. -/

section
variable {s1 s2 t1 : State}

theorem Indistinct.sequencer (h : Indistinct s1 s2) (hseq : sequencer s1 = .next t1) :
    ∃ t2, sequencer s2 = .next t2 ∧ Indistinct t1 t2 := by
  obtain ⟨hbusy, rfl⟩ | ⟨hphase, rfl⟩ | ⟨hphase, hi, hdstep⟩ | ⟨hphase, hi, rfl⟩ := sequencer_next hseq
  · exact ⟨s2, sequencer_of_not_busy (busy_eq_of_phase_eq h.phase ▸ hbusy), h⟩
  · exact ⟨_, sequencer_of_validating (h.phase ▸ hphase), h.vstep hphase⟩
  · obtain ⟨b, hread, rfl⟩ := dstep_next hdstep
    obtain ⟨hcounter, hbuf, hw⟩ := h.decoding hphase
    rw [hcounter] at hi
    rw [hcounter, hbuf] at hread
    rw [hcounter, h.fmt, hw]
    exact ⟨_, sequencer_of_decoding (h.phase ▸ hphase) hi hread, h.stored hphase _⟩
  · obtain ⟨hcounter, _⟩ := h.decoding hphase
    exact ⟨_, sequencer_of_decoded (h.phase ▸ hphase) (hcounter ▸ hi), h.cstep hphase⟩

/-- A read answers from W in Complete, where it agrees, and NOTREADY elsewhere. -/
theorem Indistinct.exec_read {i : Instr} {data : State → Word} (h : Indistinct s1 s2)
    (hop : i.opcode = .rdpix ∨ i.opcode = .rdw)
    (hread : ∀ s : State, s.phase = .complete → exec i s = .next (Machine.respond .ok (data s) s))
    (hdata : s1.w = s2.w → data s1 = data s2) (hexec : exec i s1 = .next t1) :
    ∃ t2, exec i s2 = .next t2 ∧ Indistinct t1 t2 := by
  obtain ⟨hbusy, _⟩ := exec_next hexec
  by_cases hphase : s1.phase = .complete
  · obtain rfl := Host.Outcome.next.inj ((hread s1 hphase).symm.trans hexec)
    rw [hdata (h.complete hphase)]
    exact ⟨_, hread s2 (h.phase ▸ hphase), h.respond _ _⟩
  · obtain rfl := Host.Outcome.next.inj ((exec_of_readsTooEarly hbusy ⟨hop, hphase⟩).symm.trans hexec)
    exact ⟨_, exec_of_readsTooEarly (busy_eq_of_phase_eq h.phase ▸ hbusy) ⟨hop, h.phase ▸ hphase⟩, h.respond _ _⟩

theorem Indistinct.exec {i : Instr} (h : Indistinct s1 s2) (hexec : exec i s1 = .next t1) :
    ∃ t2, exec i s2 = .next t2 ∧ Indistinct t1 t2 := by
  have hbusy : s2.busy = false := busy_eq_of_phase_eq h.phase ▸ (exec_next hexec).1
  cases i with
  | rdpix x y => exact h.exec_read (.inl rfl) (fun _ => exec_rdpix_of_complete x y) (fun hw => by rw [hw]) hexec
  | rdw k => exact h.exec_read (.inr rfl) (fun _ => exec_rdw_of_complete k) (fun hw => by rw [hw]) hexec
  | loadb fmt sstat =>
    obtain ⟨_, rfl⟩ := whenReady_next hexec
    refine ⟨_, whenReady_ready _ hbusy, ?_⟩
    cases sstat with
    | ok | ioFail => exact indistinct_accept _ _ _ _ _ h.operands h.host
    | notFound => exact h.respond _ _
  | loadf fmt sstat =>
    obtain ⟨_, rfl⟩ := whenReady_next hexec
    exact ⟨_, whenReady_ready _ hbusy, indistinct_accept _ _ _ _ _ h.operands h.host⟩
  | nop | qcmap | qbrev | qfdec | qwaddr =>
    obtain ⟨_, rfl⟩ := whenReady_next hexec
    exact ⟨_, whenReady_ready _ hbusy, h.respond _ _⟩

theorem Indistinct.takeCommand {cw : Word} (h : Indistinct s1 s2) (htake : takeCommand cw s1 = .next t1) :
    ∃ t2, takeCommand cw s2 = .next t2 ∧ Indistinct t1 t2 := by
  obtain ⟨i, hi, hexec⟩ | ⟨r, hr, rfl⟩ := takeCommand_next htake
  · obtain ⟨t2, hexec2, ht⟩ := h.exec hexec
    exact ⟨t2, by rw [Machine.takeCommand, hi]; exact hexec2, ht⟩
  · exact ⟨_, by rw [Machine.takeCommand, hr], h.respond _ _⟩

/-- Both hosts make the same move, and it lands or waits in both blocks alike (R156). -/
theorem Indistinct.step (h : Indistinct s1 s2) : step s1 = .next t1 →
    ∃ t2, step s2 = .next t2 ∧ Indistinct t1 t2 := by
  rw [Machine.step, Machine.step, agentsStep, agentsStep, ← h.host, ← busy_eq_of_phase_eq h.phase]
  cases s1.host with
  | nil => exact h.sequencer
  | cons move rest =>
    cases move with
    | pass => exact (h.dropMove rest).sequencer
    | reset =>
      intro hstep
      obtain rfl := Host.Outcome.next.inj hstep
      exact ⟨_, rfl, (h.dropMove rest).applyReset⟩
    | present o =>
      cases s1.busy with
      | true => exact h.sequencer
      | false =>
        intro hstep
        obtain rfl := Host.Outcome.next.inj hstep
        exact ⟨_, rfl, { h with operands := rfl, host := rfl }⟩
    | command cw =>
      cases s1.busy with
      | true => exact h.sequencer
      | false => exact (h.dropMove rest).takeCommand

theorem Indistinct.steps {n : Nat} (h : Indistinct s1 s2) (hsteps : steps n s1 = .next t1) :
    ∃ t2, steps n s2 = .next t2 ∧ Indistinct t1 t2 := by
  induction n generalizing s1 s2 with
  | zero =>
    obtain rfl := Host.Outcome.next.inj hsteps
    exact ⟨s2, rfl, h⟩
  | succ n ih =>
    cases hstep : Machine.step s1 with
    | next u1 =>
      obtain ⟨u2, hstep2, hu⟩ := h.step hstep
      rw [steps_of_step hstep] at hsteps
      rw [steps_of_step hstep2]
      exact ih hu hsteps
    | fault r | refused r => simp [Machine.steps, hstep] at hsteps

end

/-- Settles O47: both blocks accept the load, and then nothing that differs is read. -/
theorem noCarriedState : Obligations.NoCarriedState := by
  intro s1 s2 entry fmt sstat cw rest hbusy1 hbusy2 hhost1 hhost2 hdecode hoperands n t1 hsteps
  obtain ⟨_, hwf⟩ := decode_ok hdecode
  have accepted {s : State} (hbusy : s.busy = false) (hhost : s.host = .command cw :: rest) :
      step s = .next (respond .ok 0 (accept entry fmt sstat (dropMove rest s))) :=
    (step_of_decode_ok hbusy hhost hdecode).trans (exec_loadCommand (s := dropMove rest s) hbusy hwf)
  rw [steps_of_step (accepted hbusy1 hhost1)] at hsteps
  obtain ⟨t2, hsteps2, ht⟩ := (indistinct_accept entry fmt sstat .ok 0 (s1 := dropMove rest s1)
    (s2 := dropMove rest s2) hoperands rfl).steps hsteps
  exact ⟨t2, (steps_of_step (accepted hbusy2 hhost2) n).trans hsteps2, ht.visible_eq⟩

/-- Settles O42: outside Complete the grid is none and the port shows none of what differs; a command is taken in Idle
or Failed only, where the two states cannot be told apart. -/
theorem wordsHiddenOutsideComplete : Obligations.WordsHiddenOutsideComplete := by
  intro s w i entry sstat len cause hphase u
  refine ⟨?visible, grid_of_not_complete hphase, fun c t hexec => ?command⟩
  case visible =>
    have hgrid : grid s = grid u :=
      funext fun c => (grid_of_not_complete hphase c).trans (grid_of_not_complete (s1 := u) hphase c).symm
    rw [State.visible, hgrid]
    rfl
  case command =>
    obtain ⟨hbusy, _⟩ := exec_next hexec
    have hindistinct : Indistinct s u :=
      ⟨rfl, rfl, rfl, rfl, rfl, rfl, rfl, rfl, fun hp => by simp [State.busy, hp] at hbusy,
        fun hp => by simp [State.busy, hp] at hbusy, fun hp => absurd hp hphase⟩
    obtain ⟨v, hv, hafter⟩ := hindistinct.exec hexec
    exact ⟨v, hv, hafter.response.symm⟩

end Sys2Proof.Machine
end
